-- ==== Sys2Proof/Word.lean ====
section
/-! DEFINITION. The bit-vector types the spec's values have: bytes of memory, register words, frame dimensions. -/

namespace Sys2Proof

/-- One byte of the data address space, and one byte lane of the register port (R60, R66). -/
abbrev Byte := BitVec 8

/-- A 32-bit register or command word (R5 REG_WIDTH, R100). -/
abbrev Word := BitVec 32

/-- The 16-bit field of WIDTH and of HEIGHT (R35, R36). -/
abbrev Half := BitVec 16

end Sys2Proof
end

