-- ==== Sys2Proof/Config.lean ====
section
/-! DEFINITION. What is fixed for one machine: the decided constants of rule R5, the record of its OPEN
parameters, and the free values (opaque constants with no body: nothing can evaluate them). -/

namespace Sys2Proof

/-- A run of byte addresses: `size` bytes from `base` on. -/
structure Range where
  base : Nat
  size : Nat
deriving DecidableEq, Repr, Inhabited

/-- The OPEN parameters of rule R5, each in a form whose every value is legal.
BUS_PROTOCOL is left out: no rule depends on it (R5). -/
structure Platform where
  /-- REG_BASE is 64 times this (R5: 64-byte aligned, a 32-bit address). -/
  regBlock : BitVec 26
  /-- MAX_WIDTH is twice one more than this (R5: even, 2 to 65534). -/
  halfMaxWidth : Fin 32767
  /-- MAX_HEIGHT is twice one more than this (R5: even, 2 to 65534). -/
  halfMaxHeight : Fin 32767
  /-- HOST_COHERENT (R5, R85). -/
  hostCoherent : Bool
  /-- MEM_OK, as the union of these ranges (R5, R72): every set of 32-bit addresses is such a union. -/
  memOk : List Range
  /-- The ranges that are not ordinary memory: registers of other devices (R73). -/
  devices : List Range
deriving DecidableEq, Repr, Inhabited

namespace Config

/-- 2^ADDR_WIDTH bytes of data address space (R5, R60). -/
def addressSpace : Nat := 4294967296

/-- The 64 bytes of the register window (R23). -/
def windowBytes : Nat := 64

/-- The value of the ID register (R22). -/
def idValue : Word := 0x4E563231#32

/-- The OPEN parameters of the machine that `State.reset` describes: unknown (log entry 1). -/
opaque platform : Platform

/-- What a byte of memory that nothing has written holds: unknown, one byte for each address (log entry 2). -/
opaque powerOnByte : Nat → Byte

/-- The spec's `any` byte (R8): one for each draw number and address (log entry 3). -/
opaque anyByte : Nat → Nat → Byte

/-- The spec's `draw()` for CYCLES (R8, R262): one word for each draw number (log entry 3). -/
opaque cyclesDraw : Nat → Word

end Config

end Sys2Proof
end

