-- ==== Sys2Proof/Machine/ColorConvert.lean ====
section
/-! DEFINITION. The Color Space Converter: NV21 samples and the exact decimal conversion to RGB24 (R160 to R169). -/

namespace Sys2Proof.Machine

/-- One converted pixel, each channel 0 to 255 (R167). -/
structure Rgb where
  r : Nat
  g : Nat
  b : Nat
deriving DecidableEq, Repr

/-- `clamp8` of rule R7. -/
def clamp8 (v : Int) : Nat := if v < 0 then 0 else if 255 < v then 255 else v.toNat

/-- The numerator of the red channel (R163). -/
def redNumerator (y v : Nat) : Int := 1000000 * (y : Int) + 1370705 * ((v : Int) - 128)

/-- The numerator of the green channel (R164). -/
def greenNumerator (y u v : Nat) : Int :=
  1000000 * (y : Int) - 698001 * ((v : Int) - 128) - 337633 * ((u : Int) - 128)

/-- The numerator of the blue channel (R165). -/
def blueNumerator (y u : Nat) : Int := 1000000 * (y : Int) + 1732446 * ((u : Int) - 128)

/-- One pixel's conversion; `/` by a positive number is floor division (R7, R163 to R165, R167). -/
def convertPixel (y u v : Nat) : Rgb :=
  { r := clamp8 (redNumerator y v / 1000000)
    g := clamp8 (greenNumerator y u v / 1000000)
    b := clamp8 (blueNumerator y u / 1000000) }

/-- Channel 0 is R, 1 is G, 2 is B (R167). -/
def Rgb.channel (p : Rgb) : Nat → Nat
  | 0 => p.r
  | 1 => p.g
  | _ => p.b

/-- Byte `k` of S_MEM; every index the converter uses lies inside it (R61, R162). -/
def sample (sm : List Byte) (k : Nat) : Nat := (sm.getD k 0#8).toNat

/-- Y of the pixel in column `i` of row `j` (R161). -/
def lumaSample (sm : List Byte) (w i j : Nat) : Nat := sample sm (j * w + i)

/-- The VU-plane offset of V of a pixel (R162). -/
def uvIndex (w i j : Nat) : Nat := j / 2 * w + (i - i % 2)

/-- V of a pixel (R162). -/
def vSample (sm : List Byte) (w h i j : Nat) : Nat := sample sm (w * h + uvIndex w i j)

/-- U of a pixel (R162). -/
def uSample (sm : List Byte) (w h i j : Nat) : Nat := sample sm (w * h + uvIndex w i j + 1)

/-- `RGBFrame[j][i]` (R167). -/
def rgbFrame (sm : List Byte) (w h i j : Nat) : Rgb :=
  convertPixel (lumaSample sm w i j) (uSample sm w h i j) (vSample sm w h i j)

end Sys2Proof.Machine
end

