-- ==== Sys2Proof/Machine/LumaReduce.lean ====
section
/-! DEFINITION. The Luminance Reducer: the exact weighted luma of a converted pixel (R180 to R183). -/

namespace Sys2Proof.Machine

/-- The luma of one pixel (R180). -/
def luma (p : Rgb) : Nat := (299 * p.r + 587 * p.g + 114 * p.b) / 1000

/-- `GrayFrame[j][i]` (R182). -/
def grayFrame (sm : List Byte) (w h i j : Nat) : Nat := luma (rgbFrame sm w h i j)

end Sys2Proof.Machine
end

