-- ==== Sys2Proof/Machine/EdgeDetect.lean ====
section
/-! DEFINITION. The Gradient Edge Detector: Sobel gradients, the rounded Euclidean magnitude, and the clamp
(R190 to R199), over any grayscale frame given as a function of column and row. -/

namespace Sys2Proof.Machine

/-- The horizontal gradient at column `x`, row `y` (R192). -/
def gradientX (I : Nat → Nat → Nat) (x y : Nat) : Int :=
  -(I (x - 1) (y - 1) : Int) - 2 * (I (x - 1) y : Int) - (I (x - 1) (y + 1) : Int) +
    (I (x + 1) (y - 1) : Int) + 2 * (I (x + 1) y : Int) + (I (x + 1) (y + 1) : Int)

/-- The vertical gradient at column `x`, row `y` (R193). -/
def gradientY (I : Nat → Nat → Nat) (x y : Nat) : Int :=
  -(I (x - 1) (y - 1) : Int) - 2 * (I x (y - 1) : Int) - (I (x + 1) (y - 1) : Int) +
    (I (x - 1) (y + 1) : Int) + 2 * (I x (y + 1) : Int) + (I (x + 1) (y + 1) : Int)

/-- `isqrt` in base 4 digits, with fuel: the root of `n / 4` gives all but the last binary digit. -/
def isqrtFuel : Nat → Nat → Nat
  | 0, _ => 0
  | fuel + 1, n =>
    if n = 0 then 0
    else
      let r := 2 * isqrtFuel fuel (n / 4)
      if (r + 1) * (r + 1) ≤ n then r + 1 else r

/-- The largest `k` with `k * k ≤ n` (R7). -/
def isqrt (n : Nat) : Nat := isqrtFuel n n

/-- The nearest integer to the square root of `n` (R194). -/
def roundSqrt (n : Nat) : Nat := isqrt n + if isqrt n < n - isqrt n * isqrt n then 1 else 0

/-- The squared length of the gradient (R194). -/
def gradientSquare (I : Nat → Nat → Nat) (x y : Nat) : Nat :=
  (gradientX I x y * gradientX I x y + gradientY I x y * gradientY I x y).toNat

/-- A pixel of the first or last row or column (R191). -/
def onBorder (w h x y : Nat) : Bool :=
  decide (y = 0) || decide (y + 1 = h) || decide (x = 0) || decide (x + 1 = w)

/-- `E[y][x]` over a grayscale frame (R191, R195, R196). -/
def edgeAt (I : Nat → Nat → Nat) (w h x y : Nat) : Nat :=
  if onBorder w h x y then 0 else min 255 (roundSqrt (gradientSquare I x y))

/-- `EdgeFrame[y][x]` (R196). -/
def edgeFrame (sm : List Byte) (w h x y : Nat) : Nat := edgeAt (fun x y => grayFrame sm w h x y) w h x y

end Sys2Proof.Machine
end

