-- ==== Sys2Proof/Machine/Script.lean ====
section
/-! DEFINITION. What the agents around the block can do, as data: the host's bus accesses (R110, R130), the
order in which the agents move (R10), and what the bus answers. -/

namespace Sys2Proof.Machine

/-- The size of one bus access: 8, 16 or 32 bits (R67, R131). -/
inductive AccessSize where
  | byte
  | half
  | word
deriving DecidableEq, Repr

/-- The nine registers of rule R23. -/
inductive Reg where
  | id
  | ctrl
  | cmd
  | status
  | srcAddr
  | dstAddr
  | width
  | height
  | cycles
deriving DecidableEq, Repr

/-- One access of a host.
`write`, `read` and `poll` are the register statements WR, RD and POLL, `mem` is MEM (R110).
`store`, `load`, `clean` and `invalidate` are the data-space and cache actions that R77 to R80 and R85 speak of. -/
inductive HostOp where
  /-- A register write: the offset in the window, and the byte lanes that carry the data, lane 0 first. -/
  | write (offset : BitVec 6) (lanes : List Byte)
  /-- A register read. -/
  | read (offset : BitVec 6) (size : AccessSize)
  /-- Read the register again and again until its value under `mask` is `value`. -/
  | poll (r : Reg) (mask value : Word)
  /-- Store the bytes at `addr`, `addr + 1`, …, one access a byte, and clean them from the host's cache. -/
  | mem (addr : Nat) (bytes : List Byte)
  /-- Store one byte, with no cache maintenance. -/
  | store (addr : Nat) (byte : Byte)
  /-- Load one byte. -/
  | load (addr : Nat)
  /-- Clean the host's cached copies of `len` bytes from `addr` on (R85). -/
  | clean (addr len : Nat)
  /-- Invalidate the host's cached copies of `len` bytes from `addr` on (R85). -/
  | invalidate (addr len : Nat)
deriving DecidableEq, Repr

/-- Whose step comes next (R10). -/
inductive Agent where
  /-- A host: its next access. -/
  | host
  /-- The engine: its completion step, where one is enabled. -/
  | engine
  /-- The reset input is asserted (R280). -/
  | reset
  /-- The reset input is released (R284). -/
  | release
deriving DecidableEq, Repr

/-- What the bus answers to one access (R130, R131). -/
inductive Response where
  /-- A write was taken. -/
  | okay
  /-- The access was not admitted. -/
  | busError
  /-- A read's data: its byte lanes, lane 0 first (R66), or the one byte of a load. -/
  | data (lanes : List Byte)
deriving DecidableEq, Repr

end Sys2Proof.Machine
end

