-- ==== Sys2Proof/Syntax.lean ====
section
/-! DEFINITION. The command words of the opcode table, one constructor per row. -/

namespace Sys2Proof

/-- The six commands of rule R105.
None carries an operand: MODE is part of the word, and the other operands of PROCESS are registers (R104). -/
inductive Instr where
  /-- NOP, word 0x00000000 (R211). -/
  | nop
  /-- INIT, word 0x00000001 (R220). -/
  | init
  /-- PROCESS.RAW, word 0x00000002 (R223). -/
  | processRaw
  /-- PROCESS.GRAY, word 0x00000012 (R224). -/
  | processGray
  /-- PROCESS.EDGE, word 0x00000022 (R225). -/
  | processEdge
  /-- PROCESS.RSVD, word 0x00000032: PROCESS with the reserved MODE 3 (R107, R214). -/
  | processRsvd
deriving DecidableEq, Repr

end Sys2Proof
end

