-- ==== Sys2Proof/WellFormed.lean ====
section
/-! DEFINITION. Which raw command words and which host accesses are well formed: the checks a term can fail
before the machine looks at it. -/

namespace Sys2Proof

/-- The fields of a command word (R101). -/
structure CommandFields where
  op : BitVec 4
  mode : BitVec 2
  rsvd : BitVec 26
deriving DecidableEq, Repr

/-- RSVD is 0, OP is NOP, INIT or PROCESS, and MODE is 0 for NOP and INIT (R101, R102, R106). -/
def CommandFields.wf (f : CommandFields) : Bool :=
  f.rsvd == 0#26 && (f.op == 2#4 || ((f.op == 0#4 || f.op == 1#4) && f.mode == 0#2))

namespace Machine

/-- An offset the register port admits: a multiple of 4 (R130). -/
def offsetAligned (offset : BitVec 6) : Bool := offset.extractLsb' 0 2 == 0#2

/-- A register access is admitted (R130, R131), and a data access stays inside the address space (R60). -/
def HostOp.wf : HostOp → Bool
  | .write offset lanes => offsetAligned offset && lanes.length == 4
  | .read offset size => offsetAligned offset && size == .word
  | .poll _ _ _ => true
  | .mem addr bytes => decide (addr + bytes.length ≤ Config.addressSpace)
  | .store addr _ => decide (addr < Config.addressSpace)
  | .load addr => decide (addr < Config.addressSpace)
  | .clean addr len => decide (addr + len ≤ Config.addressSpace)
  | .invalidate addr len => decide (addr + len ≤ Config.addressSpace)

end Machine

end Sys2Proof
end

