-- ==== Sys2Proof/Decode.lean ====
section
/-! DEFINITION. The command decoder of rule R105, total on any bytes and rejecting by name, the encoder written
from the same tables (R101 to R103), and the register port's byte lanes (R66). -/

namespace Sys2Proof

/-- Why bytes are no command of rule R105.
The first is a write the register port does not admit (R67), the others are illegal words (R106). -/
inductive DecodeReject where
  /-- Not exactly four byte lanes. -/
  | wrongLength
  /-- RSVD is not 0. -/
  | reservedBitsSet
  /-- OP is 0x3 to 0xF. -/
  | reservedOp
  /-- OP is NOP or INIT and MODE is not 0. -/
  | modeOnNopOrInit
deriving DecidableEq, Repr

/-- The word four byte lanes carry: bit 8·k + b is bit b of lane k (R66). -/
def wordOfLanes : List Byte → Option Word
  | [b0, b1, b2, b3] => some (b3 ++ b2 ++ b1 ++ b0)
  | _ => none

/-- The byte lanes of a word, lane 0 first (R66). -/
def lanesOfWord (w : Word) : List Byte :=
  [w.extractLsb' 0 8, w.extractLsb' 8 8, w.extractLsb' 16 8, w.extractLsb' 24 8]

/-- A word cut into its fields (R101). -/
def unpackFields (w : Word) : CommandFields :=
  { op := w.extractLsb' 0 4, mode := w.extractLsb' 4 2, rsvd := w.extractLsb' 6 26 }

/-- The word made of given fields (R101). -/
def packFields (f : CommandFields) : Word := f.rsvd ++ f.mode ++ f.op

/-- The decoder on fields (R105, R106). -/
def decodeFields (f : CommandFields) : Except DecodeReject Instr :=
  if f.rsvd ≠ 0#26 then .error .reservedBitsSet
  else if f.op = 0#4 then if f.mode = 0#2 then .ok .nop else .error .modeOnNopOrInit
  else if f.op = 1#4 then if f.mode = 0#2 then .ok .init else .error .modeOnNopOrInit
  else if f.op = 2#4 then
    if f.mode = 0#2 then .ok .processRaw
    else if f.mode = 1#2 then .ok .processGray
    else if f.mode = 2#2 then .ok .processEdge
    else .ok .processRsvd
  else .error .reservedOp

/-- The decoder on a command word (R105). -/
def decodeWord (w : Word) : Except DecodeReject Instr := decodeFields (unpackFields w)

/-- The decoder on the bytes of a CMD write, lane 0 first (R100, R105). -/
def decode (lanes : List Byte) : Except DecodeReject Instr :=
  match wordOfLanes lanes with
  | none => .error .wrongLength
  | some w => decodeWord w

/-- The fields of each command (R102, R103, R107). -/
def Instr.fields : Instr → CommandFields
  | .nop => { op := 0#4, mode := 0#2, rsvd := 0#26 }
  | .init => { op := 1#4, mode := 0#2, rsvd := 0#26 }
  | .processRaw => { op := 2#4, mode := 0#2, rsvd := 0#26 }
  | .processGray => { op := 2#4, mode := 1#2, rsvd := 0#26 }
  | .processEdge => { op := 2#4, mode := 2#2, rsvd := 0#26 }
  | .processRsvd => { op := 2#4, mode := 3#2, rsvd := 0#26 }

/-- An instruction is well formed when its word's fields are (R101). -/
def Instr.wf (i : Instr) : Bool := i.fields.wf

/-- The command word of an instruction (R101, R105). -/
def encodeWord (i : Instr) : Word := packFields i.fields

/-- The byte lanes of an instruction's word, as a CMD write carries them (R66, R100). -/
def encode (i : Instr) : List Byte := lanesOfWord (encodeWord i)

/-- The word of an opcode-table row: its bits, every bit above `nbits` 0 (R100: no command has more than 32). -/
def tableWord (nbits w : Nat) : Word := BitVec.ofNat 32 (w % 2 ^ nbits)

/-- The instruction the decoder reads from an opcode-table row's bits. -/
def decodeTableWord (nbits w : Nat) : Option Instr :=
  if nbits ≤ 32 then (decode (lanesOfWord (tableWord nbits w))).toOption else none

end Sys2Proof
end

