-- ==== Sys2Proof/Machine/State.lean ====
section
/-! DEFINITION. Everything the spec gives the block to hold (R20), with the memory it works on, the OPEN
parameters it is built with, and the model's own record of what the agents around it do. -/

namespace Sys2Proof.Machine

/-- The Processing Modes an accepted command can have (R103). -/
inductive Mode where
  | raw
  | gray
  | edge
deriving DecidableEq, Repr

/-- The values of STATUS.ERR_CODE that are ever produced (R31, R241). -/
inductive ErrorCode where
  | noError
  | notInit
  | badMode
  | badInput
  | badGeometry
  | range
  | overlap
  | busError
  | illegalCmd
deriving DecidableEq, Repr

/-- The stored fields of STATUS (R26). BUSY is the engine state (R27), so it is not stored twice. -/
structure Status where
  done : Bool
  err : Bool
  reject : Bool
  errCode : ErrorCode
  initDone : Bool
deriving DecidableEq, Repr

/-- What the engine holds of an accepted command (R40).
`srcMem` is S_MEM, the bytes of the SRC range at acceptance. -/
structure Snapshot where
  src : Word
  dst : Word
  w : Half
  h : Half
  mode : Mode
  srcMem : List Byte
deriving DecidableEq, Repr

/-- The engine state (R39): at most one command, and its snapshot only while BUSY (R40). -/
inductive Engine where
  | idle
  | busy (snap : Snapshot)
deriving DecidableEq, Repr

/-- The data memory (R60): a byte for each listed address, addresses rising.
An address that is not listed holds no known byte (log entry 2). -/
abbrev Memory := List Host.Cell

/-- The machine. The registers ID and CMD hold no state (R22, R25), and IRQ has none of its own (R42). -/
structure State where
  /-- The OPEN parameters of R5. No step changes them. -/
  platform : Platform
  /-- CTRL.IRQ_EN (R24). -/
  irqEn : Bool
  /-- STATUS but for BUSY (R26). -/
  status : Status
  /-- SRC_ADDR (R33). -/
  srcAddr : Word
  /-- DST_ADDR (R34). -/
  dstAddr : Word
  /-- WIDTH.W (R35). -/
  width : Half
  /-- HEIGHT.H (R36). -/
  height : Half
  /-- CYCLES (R37). -/
  cycles : Word
  /-- The engine and its snapshot (R39, R40). -/
  engine : Engine
  /-- TAINT (R43). -/
  taint : Bool
  /-- The reset input is asserted (R280). -/
  inReset : Bool
  /-- The data memory (R60). -/
  mem : Memory
  /-- The model's own: addresses a host stored to and has not cleaned from its cache (R77, R85). -/
  dirty : List Nat
  /-- The model's own: DST addresses of commands completed, or abandoned by reset (log entry 16), that no host has
  invalidated since (R78, R85). -/
  stale : List Nat
  /-- The model's own: how many draws have been taken (R8). -/
  drawCount : Nat
  /-- The model's own: the accesses the hosts have yet to make, in the order the bus serves them (R10, R81). -/
  script : List HostOp
  /-- The model's own: whose step comes next, and then whose (R10, R292). -/
  schedule : List Agent
  /-- The model's own: what the bus answered, latest first (R110, R130). -/
  responses : List Response
deriving DecidableEq, Repr

/-- Why the machine stops with a fault. The block itself raises none (R240). -/
inductive Fault where
  /-- Raised by a host's `mem`, `store` or `load` at an address past 0xFFFFFFFF, which does not exist (R60). Safe. -/
  | addressOutsideSpace
deriving DecidableEq, Repr

/-- Why the model gives no next state: the host broke a duty for which the spec gives no result. -/
inductive Refusal where
  /-- Raised by an arm of `exec` whose instruction has no meaning yet. Safe. -/
  | notModelled (mnemonic : String)
  /-- Raised by PROCESS.RAW, PROCESS.GRAY and PROCESS.EDGE when every check passes and the SRC or DST range covers
  the register window or a device register (R64, R73: a model must refuse such a launch). Safe. -/
  | bufferOverDevice
  /-- Raised by PROCESS.RAW, PROCESS.GRAY and PROCESS.EDGE when every check passes, HOST_COHERENT is false and a
  host has not cleaned a byte of the SRC range (R85: a model must refuse it). Safe. -/
  | sourceNotCleaned
  /-- Raised by a host's `load` of a DST byte of a command that ended and that no host has invalidated since, when
  HOST_COHERENT is false (R85: a model must refuse it; for a command abandoned by reset, log entry 16). Safe. -/
  | staleRead
  /-- Raised by a register access while reset is asserted (R280: not admitted, a host must not issue it). Safe. -/
  | registerAccessInReset
  /-- Raised by a host's `mem`, `store` or `load` at a register of another device, whose behaviour the spec does
  not give (R73, R74). Safe. -/
  | deviceAccess
deriving DecidableEq, Repr

/-- STATUS right after reset (R45). -/
def Status.reset : Status :=
  { done := false, err := false, reject := false, errCode := .noError, initDone := false }

/-- The machine right after reset (R45), with reset released, no host access waiting, and memory in which nothing
is listed. -/
def State.reset : State :=
  { platform := Config.platform
    irqEn := false
    status := Status.reset
    srcAddr := 0#32
    dstAddr := 0#32
    width := 0#16
    height := 0#16
    cycles := 0#32
    engine := .idle
    taint := false
    inReset := false
    mem := []
    dirty := []
    stale := []
    drawCount := 0
    script := []
    schedule := []
    responses := [] }

end Sys2Proof.Machine
end

