-- ==== Sys2Proof/Machine/Flags.lean ====
section
/-! DEFINITION. STATUS and the interrupt output: the bits as software reads them, what clears them, and IRQ. -/

namespace Sys2Proof.Machine

/-- The 4-bit code of an error (R241). -/
def ErrorCode.code : ErrorCode → BitVec 4
  | .noError => 0x0#4
  | .notInit => 0x1#4
  | .badMode => 0x2#4
  | .badInput => 0x3#4
  | .badGeometry => 0x4#4
  | .range => 0x5#4
  | .overlap => 0x6#4
  | .busError => 0x7#4
  | .illegalCmd => 0x8#4

/-- STATUS.BUSY: 1 exactly when the engine state is BUSY (R27). -/
def State.busy (s : State) : Bool :=
  match s.engine with
  | .idle => false
  | .busy _ => true

/-- The word a read of STATUS returns (R138). -/
def statusWord (s : State) : Word :=
  0#15 ++ BitVec.ofBool s.status.initDone ++ 0#4 ++ s.status.errCode.code ++ 0#4 ++
    BitVec.ofBool s.status.reject ++ BitVec.ofBool s.status.err ++ BitVec.ofBool s.status.done ++
    BitVec.ofBool s.busy

/-- Clearing ERR clears ERR_CODE with it (R26, R139). -/
def Status.clearErr (st : Status) : Status := { st with err := false, errCode := .noError }

/-- What an idle evaluation clears before it decodes (R212). -/
def Status.clearResult (st : Status) : Status := { st.clearErr with done := false }

/-- What a write of `d` to STATUS clears (R139). -/
def Status.writeOneToClear (st : Status) (d : Word) : Status :=
  { done := st.done && !d.getLsbD 1
    err := st.err && !d.getLsbD 2
    reject := st.reject && !d.getLsbD 3
    errCode := if d.getLsbD 2 then .noError else st.errCode
    initDone := st.initDone }

/-- A command succeeded: DONE (R220, R222). -/
def Status.succeed (st : Status) : Status := { st with done := true }

/-- A command failed: ERR with its code (R245, R246). -/
def Status.fail (st : Status) (c : ErrorCode) : Status := { st with err := true, errCode := c }

/-- The interrupt output IRQ (R42, R147, R251). -/
def State.irq (s : State) : Bool := s.irqEn && (s.status.done || s.status.err)

end Sys2Proof.Machine
end

