-- ==== Sys2Proof/Machine/Operands.lean ====
section
/-! DEFINITION. Where operands come from: the platform's parameters, the register window, and the SRC and DST
ranges of a frame. -/

namespace Sys2Proof

/-- An address lies in a range. -/
def Range.holds (r : Range) (a : Nat) : Bool := decide (r.base ≤ a) && decide (a < r.base + r.size)

/-- Two ranges share an address. -/
def Range.meets (r q : Range) : Bool :=
  decide (0 < r.size) && decide (0 < q.size) && decide (r.base < q.base + q.size) && decide (q.base < r.base + r.size)

/-- REG_BASE (R5, R64). -/
def Platform.regBase (p : Platform) : Nat := Config.windowBytes * p.regBlock.toNat

/-- MAX_WIDTH (R5). -/
def Platform.maxWidth (p : Platform) : Nat := 2 * (p.halfMaxWidth.val + 1)

/-- MAX_HEIGHT (R5). -/
def Platform.maxHeight (p : Platform) : Nat := 2 * (p.halfMaxHeight.val + 1)

/-- An address is in MEM_OK (R5, R72). -/
def Platform.memOkAt (p : Platform) (a : Nat) : Bool := p.memOk.any (fun r => r.holds a)

/-- The register window REG_BASE to REG_BASE + 0x3F (R64). -/
def Platform.window (p : Platform) : Range := { base := p.regBase, size := Config.windowBytes }

/-- A range covers the register window or another device's register (R73). -/
def Platform.overDevice (p : Platform) (r : Range) : Bool := r.meets p.window || p.devices.any (fun d => r.meets d)

namespace Machine

/-- LS, the bytes of the SRC range of a W×H frame (R61, R63). -/
def srcLength (w h : Nat) : Nat := w * h + w * h / 2

/-- LD, the bytes of the DST range of a W×H frame (R62, R63). -/
def dstLength (w h : Nat) : Nat := w * h * 3

/-- The SRC range the parameter registers name (R61). -/
def State.srcRange (s : State) : Range :=
  { base := s.srcAddr.toNat, size := srcLength s.width.toNat s.height.toNat }

/-- The DST range the parameter registers name (R62). -/
def State.dstRange (s : State) : Range :=
  { base := s.dstAddr.toNat, size := dstLength s.width.toNat s.height.toNat }

/-- The SRC range of an accepted command (R61). -/
def Snapshot.srcRange (c : Snapshot) : Range := { base := c.src.toNat, size := srcLength c.w.toNat c.h.toNat }

/-- The DST range of an accepted command (R62). -/
def Snapshot.dstRange (c : Snapshot) : Range := { base := c.dst.toNat, size := dstLength c.w.toNat c.h.toNat }

/-- The addresses of a range, lowest first. -/
def addressesOf (r : Range) : List Nat := (List.range r.size).map (fun k => r.base + k)

/-- An address the running command reads or writes: in its SRC or its DST range (R79, R80). -/
def State.inFlight (s : State) (a : Nat) : Bool :=
  match s.engine with
  | .idle => false
  | .busy c => c.srcRange.holds a || c.dstRange.holds a

/-- An address the running command writes (R79). -/
def State.inFlightDst (s : State) (a : Nat) : Bool :=
  match s.engine with
  | .idle => false
  | .busy c => c.dstRange.holds a

/-- The offset of a register in the window (R23). -/
def Reg.offset : Reg → BitVec 6
  | .id => 0x00#6
  | .ctrl => 0x04#6
  | .cmd => 0x08#6
  | .status => 0x0C#6
  | .srcAddr => 0x10#6
  | .dstAddr => 0x14#6
  | .width => 0x18#6
  | .height => 0x1C#6
  | .cycles => 0x20#6

/-- The register at an offset; the slots 0x24 to 0x3C hold none (R23, R38). -/
def regAt (offset : BitVec 6) : Option Reg :=
  [Reg.id, .ctrl, .cmd, .status, .srcAddr, .dstAddr, .width, .height, .cycles].find? (fun r => r.offset == offset)

/-- What a read of a register returns (R132, R134, R136, R138, R140 to R144). -/
def readReg (s : State) : Reg → Word
  | .id => Config.idValue
  | .ctrl => (BitVec.ofBool s.irqEn).setWidth 32
  | .cmd => 0#32
  | .status => statusWord s
  | .srcAddr => s.srcAddr
  | .dstAddr => s.dstAddr
  | .width => s.width.setWidth 32
  | .height => s.height.setWidth 32
  | .cycles => s.cycles

/-- What a read at an admitted offset returns: a register, or 0 in a reserved slot (R145). -/
def readSlot (s : State) (offset : BitVec 6) : Word :=
  match regAt offset with
  | some r => readReg s r
  | none => 0#32

/-- Check 3, absent input (R215). -/
def State.inputAbsent (s : State) : Bool :=
  s.srcAddr == 0#32 || s.dstAddr == 0#32 || s.width == 0#16 || s.height == 0#16

/-- Check 4, geometry (R216). -/
def State.badGeometry (s : State) : Bool :=
  decide (s.width.toNat % 2 = 1) || decide (s.height.toNat % 2 = 1) ||
    decide (s.platform.maxWidth < s.width.toNat) || decide (s.platform.maxHeight < s.height.toNat)

/-- Check 5, address range, on lengths computed without overflow (R217). -/
def State.pastTheEnd (s : State) : Bool :=
  decide (Config.addressSpace < s.srcRange.base + s.srcRange.size) ||
    decide (Config.addressSpace < s.dstRange.base + s.dstRange.size)

/-- Check 6, overlap (R218). -/
def State.buffersOverlap (s : State) : Bool :=
  decide (s.srcRange.base < s.dstRange.base + s.dstRange.size) &&
    decide (s.dstRange.base < s.srcRange.base + s.srcRange.size)

/-- The first of the checks 3 to 6 that fails (R215 to R218, R243). -/
def State.parameterError (s : State) : Option ErrorCode :=
  if s.inputAbsent then some .badInput
  else if s.badGeometry then some .badGeometry
  else if s.pastTheEnd then some .range
  else if s.buffersOverlap then some .overlap
  else none

/-- A launch whose SRC or DST range is not ordinary memory (R73). -/
def State.launchOverDevice (s : State) : Bool :=
  s.platform.overDevice s.srcRange || s.platform.overDevice s.dstRange

/-- A launch whose SRC range a host has not cleaned, on a platform that is not coherent (R77, R85). -/
def State.launchUncleaned (s : State) : Bool :=
  !s.platform.hostCoherent && s.dirty.any (fun a => s.srcRange.holds a)

end Machine

end Sys2Proof
end

