-- ==== Sys2Proof/Machine/Ops.lean ====
section
/-! DEFINITION. The named operations over memory and state: reading and writing bytes, answering an access,
failing a command (this block's form of taking an exception, R240, R245), clearing the result (its form of the
return, R248), and accepting a command. -/

namespace Sys2Proof.Machine

/-- The byte listed at an address, if one is. -/
def Memory.lookup : Memory → Nat → Option Byte
  | [], _ => none
  | (b, v) :: m, a => if b = a then some v else Memory.lookup m a

/-- `MemRead(a, 1)` (R8): the byte listed, else the unknown byte the address held before anything was written. -/
def Memory.read (m : Memory) (a : Nat) : Byte := (Memory.lookup m a).getD (Config.powerOnByte a)

/-- `MemWrite(a, 1, v)` (R8), keeping the addresses rising. -/
def Memory.write : Memory → Nat → Byte → Memory
  | [], a, v => [(a, v)]
  | (b, u) :: m, a, v =>
    if a < b then (a, v) :: (b, u) :: m
    else if a = b then (a, v) :: m
    else (b, u) :: Memory.write m a v

/-- Write `f a` at each address `a` of a list. -/
def Memory.fill (m : Memory) (f : Nat → Byte) (as : List Nat) : Memory :=
  as.foldl (fun m a => Memory.write m a (f a)) m

/-- Read the bytes of a range, lowest address first. -/
def Memory.readRange (m : Memory) (r : Range) : List Byte := (addressesOf r).map (fun a => Memory.read m a)

/-- Addresses rise from `lo` on. -/
def Memory.rising (lo : Nat) : Memory → Bool
  | [] => true
  | (a, _) :: m => decide (lo ≤ a) && Memory.rising (a + 1) m

/-- The canonical form: addresses strictly rising, all inside the address space (R60). -/
def Memory.wf (m : Memory) : Bool := Memory.rising 0 m && m.all (fun c => decide (c.1 < Config.addressSpace))

/-- The bus answers an access. -/
def State.respond (s : State) (r : Response) : State := { s with responses := r :: s.responses }

/-- STATUS with a new value of its stored fields. -/
def State.withStatus (s : State) (st : Status) : State := { s with status := st }

/-- `raise Error(code)` (R8, R245): the one way a command fails at evaluation. -/
def State.raiseError (s : State) (c : ErrorCode) : State := s.withStatus (s.status.fail c)

/-- What is cleared before an idle command is decoded (R212, R248). -/
def State.clearResult (s : State) : State := s.withStatus s.status.clearResult

/-- A command is discarded because the engine is BUSY (R210, R242). -/
def State.rejectCommand (s : State) : State := s.withStatus { s.status with reject := true }

/-- The snapshot the parameter registers and memory give now (R40, R219). -/
def State.snapshot (s : State) (m : Mode) : Snapshot :=
  { src := s.srcAddr
    dst := s.dstAddr
    w := s.width
    h := s.height
    mode := m
    srcMem := Memory.readRange s.mem s.srcRange }

/-- Acceptance (R219). -/
def State.accept (s : State) (m : Mode) : State := { s with engine := .busy (s.snapshot m), taint := false }

/-- Entry and idle evaluation of a non-NOP word (R210, R212): discarded while BUSY, else evaluated with the
previous result cleared. -/
def evaluate (body : State → Host.Outcome State Fault Refusal) (s : State) : Host.Outcome State Fault Refusal :=
  if s.busy then .next s.rejectCommand else body s.clearResult

/-- `do_init()` (R220). -/
def doInit (s : State) : Host.Outcome State Fault Refusal :=
  .next (s.withStatus { s.status.succeed with initDone := true })

/-- Launch a command that has passed every check, unless the spec has a model refuse it (R73, R85, R219). -/
def launch (m : Mode) (s : State) : Host.Outcome State Fault Refusal :=
  if s.launchOverDevice then .refused .bufferOverDevice
  else if s.launchUncleaned then .refused .sourceNotCleaned
  else .next (s.accept m)

/-- `do_process(m)` (R213 to R219); `none` is the reserved MODE 3. -/
def doProcess (m : Option Mode) (s : State) : Host.Outcome State Fault Refusal :=
  if s.status.initDone then
    match m with
    | none => .next (s.raiseError .badMode)
    | some mode =>
      match s.parameterError with
      | some c => .next (s.raiseError c)
      | none => launch mode s
  else .next (s.raiseError .notInit)

/-- The evaluation of an illegal word (R106, R210, R212). -/
def evaluateIllegal (s : State) : Host.Outcome State Fault Refusal :=
  evaluate (fun s => .next (s.raiseError .illegalCmd)) s

end Sys2Proof.Machine
end

