-- ==== Sys2Proof/Machine/Commands.lean ====
section
/-! DEFINITION. The meaning of each command word, evaluated by a CMD write (R210 to R225). -/

namespace Sys2Proof.Machine

/-- NOP (R211): no state is written, whatever the engine does. -/
def execNop (s : State) : Host.Outcome State Fault Refusal := .next s

/-- INIT (R220). -/
def execInit (s : State) : Host.Outcome State Fault Refusal := evaluate doInit s

/-- PROCESS.RAW (R223). -/
def execProcessRaw (s : State) : Host.Outcome State Fault Refusal := evaluate (doProcess (some .raw)) s

/-- PROCESS.GRAY (R224). -/
def execProcessGray (s : State) : Host.Outcome State Fault Refusal := evaluate (doProcess (some .gray)) s

/-- PROCESS.EDGE (R225). -/
def execProcessEdge (s : State) : Host.Outcome State Fault Refusal := evaluate (doProcess (some .edge)) s

/-- PROCESS with the reserved MODE 3 (R107, R214). -/
def execProcessRsvd (s : State) : Host.Outcome State Fault Refusal := evaluate (doProcess none) s

end Sys2Proof.Machine
end

