-- ==== Sys2Proof/Machine/Dispatch.lean ====
section
/-! DEFINITION. One arm per command (R212). -/

namespace Sys2Proof.Machine

def exec (i : Instr) (s : State) : Host.Outcome State Fault Refusal :=
  match i with
  | .nop => Sys2Proof.Machine.execNop s
  | .init => Sys2Proof.Machine.execInit s
  | .processRaw => Sys2Proof.Machine.execProcessRaw s
  | .processGray => Sys2Proof.Machine.execProcessGray s
  | .processEdge => Sys2Proof.Machine.execProcessEdge s
  | .processRsvd => Sys2Proof.Machine.execProcessRsvd s

end Sys2Proof.Machine
end

