-- ==== Sys2Proof/Machine/Engine.lean ====
section
/-! DEFINITION. The engine's one step, completion (R222), with the result it writes (R221), and the reset agent's
steps (R280 to R282). -/

namespace Sys2Proof.Machine

/-- Byte `k` of the output (R167, R183, R221): channel `k mod 3` of pixel `k // 3` in row-major order (R9). -/
def outByte (m : Mode) (sm : List Byte) (w h k : Nat) : Byte :=
  let i := k / 3 % w
  let j := k / 3 / w
  match m with
  | .raw => BitVec.ofNat 8 ((rgbFrame sm w h i j).channel (k % 3))
  | .gray => BitVec.ofNat 8 (grayFrame sm w h i j)
  | .edge => BitVec.ofNat 8 (edgeFrame sm w h i j)

/-- The byte the result has for an address of the DST range (R62, R221). -/
def Snapshot.resultAt (c : Snapshot) (a : Nat) : Byte := outByte c.mode c.srcMem c.w.toNat c.h.toNat (a - c.dst.toNat)

/-- Every address the command accesses is in MEM_OK (R72). -/
def Snapshot.accessible (c : Snapshot) (p : Platform) : Bool :=
  (addressesOf c.srcRange).all p.memOkAt && (addressesOf c.dstRange).all p.memOkAt

/-- Memory after completion: the result, or any bytes where the block promises none (R222, R246). -/
def completionMem (s : State) (c : Snapshot) : Memory :=
  if c.accessible s.platform then
    Memory.fill s.mem (if s.taint then Config.anyByte s.drawCount else c.resultAt) (addressesOf c.dstRange)
  else Memory.fill s.mem (Config.anyByte s.drawCount) ((addressesOf c.dstRange).filter s.platform.memOkAt)

/-- STATUS after completion: DONE, or ERR with BUS_ERROR (R222, R246). -/
def completionStatus (s : State) (c : Snapshot) : Status :=
  if c.accessible s.platform then s.status.succeed else s.status.fail .busError

/-- Addresses whose copies in a host's cache may be old from now on (R78, R85). -/
def State.markStale (s : State) (r : Range) : List Nat :=
  if s.platform.hostCoherent then s.stale
  else addressesOf r ++ s.stale.filter (fun a => !r.holds a)

/-- `complete()` (R222). -/
def State.complete (s : State) (c : Snapshot) : State :=
  { s with
    mem := completionMem s c
    status := completionStatus s c
    cycles := Config.cyclesDraw s.drawCount
    engine := .idle
    taint := false
    stale := s.markStale c.dstRange
    drawCount := s.drawCount + 1 }

/-- The engine's turn: it completes the running command, or has nothing to do (R10, R222, R292). -/
def engineStep (s : State) : Host.Outcome State Fault Refusal :=
  match s.engine with
  | .idle => .next s
  | .busy c => .next (s.complete c)

/-- Reset abandons a running command: every byte of its DST range holds any byte (R281).
That the duty to invalidate before reading (R85) covers these bytes too is the model's choice, log entry 16. -/
def State.abandon (s : State) : State :=
  match s.engine with
  | .idle => s
  | .busy c =>
    { s with
      mem := Memory.fill s.mem (Config.anyByte s.drawCount) (addressesOf c.dstRange)
      engine := .idle
      stale := s.markStale c.dstRange
      drawCount := s.drawCount + 1 }

/-- Every register of the block at its reset value, the engine IDLE (R45, R280). -/
def State.clearBlock (s : State) : State :=
  { s with
    irqEn := false
    status := Status.reset
    srcAddr := 0#32
    dstAddr := 0#32
    width := 0#16
    height := 0#16
    cycles := 0#32
    engine := .idle
    taint := false }

/-- The reset input is asserted (R280 to R282). -/
def State.assertReset (s : State) : State := { s.abandon.clearBlock with inReset := true }

/-- The reset input is released (R284). -/
def State.releaseReset (s : State) : State := { s with inReset := false }

end Sys2Proof.Machine
end

