-- ==== Sys2Proof/Machine/HostPort.lean ====
section
/-! DEFINITION. The host's side: register transactions (R130 to R147), accesses to the data memory and to the
host's own cache (R77 to R80, R85), the host script (R110, R111), and whose turn it is (R10, R292). -/

namespace Sys2Proof.Machine

/-- A CMD write: the word's bytes are decoded and the command evaluated, all in this step (R137, R210, R293). -/
def commandWrite (lanes : List Byte) (s : State) : Host.Outcome State Fault Refusal :=
  match decode lanes with
  | .ok i => exec i s
  | .error _ => evaluateIllegal s

/-- An admitted write of `d` to a register other than CMD (R133, R135, R139 to R144). -/
def writeReg (s : State) (d : Word) : Reg → State
  | .id => s
  | .ctrl => { s with irqEn := d.getLsbD 0 }
  | .cmd => s
  | .status => s.withStatus (s.status.writeOneToClear d)
  | .srcAddr => { s with srcAddr := d }
  | .dstAddr => { s with dstAddr := d }
  | .width => { s with width := d.setWidth 16 }
  | .height => { s with height := d.setWidth 16 }
  | .cycles => s

/-- An admitted write at an offset; a reserved slot ignores it (R137, R145). -/
def commitWrite (offset : BitVec 6) (lanes : List Byte) (d : Word) (s : State) : Host.Outcome State Fault Refusal :=
  match regAt offset with
  | some .cmd => commandWrite lanes s
  | some r => .next (writeReg s d r)
  | none => .next s

/-- A register write transaction (R130, R131). -/
def registerWrite (offset : BitVec 6) (lanes : List Byte) (s : State) : Host.Outcome State Fault Refusal :=
  if s.inReset then .refused .registerAccessInReset
  else
    match offsetAligned offset, wordOfLanes lanes with
    | true, some d => commitWrite offset lanes d (s.respond .okay)
    | _, _ => .next (s.respond .busError)

/-- A register read transaction (R130, R131): it changes nothing but what the host has been answered. -/
def registerRead (offset : BitVec 6) (size : AccessSize) (s : State) : Host.Outcome State Fault Refusal :=
  if s.inReset then .refused .registerAccessInReset
  else if offsetAligned offset && size == .word then .next (s.respond (.data (lanesOfWord (readSlot s offset))))
  else .next (s.respond .busError)

/-- POLL: one read; the statement stays in the script until the value is the one waited for (R110). -/
def pollRegister (r : Reg) (mask value : Word) (s : State) : Host.Outcome State Fault Refusal :=
  if s.inReset then .refused .registerAccessInReset
  else
    let t := s.respond (.data (lanesOfWord (readReg s r)))
    .next (if readReg s r &&& mask = value then t else { t with script := .poll r mask value :: t.script })

/-- A data access of a host, where it is one: not past the last address (R60), not at another device (R73).
One byte at the register window is a register access that is not admitted (R131). -/
def dataAccess (a : Nat) (body : State → Host.Outcome State Fault Refusal) (s : State) :
    Host.Outcome State Fault Refusal :=
  if Config.addressSpace ≤ a then .fault .addressOutsideSpace
  else if s.platform.devices.any (fun d => d.holds a) then .refused .deviceAccess
  else if s.platform.window.holds a then
    if s.inReset then .refused .registerAccessInReset else .next (s.respond .busError)
  else body s

/-- A host writes memory at `a`: TAINT is set where the running command uses the address (R43, R79, R80), and the
host's own copy of the byte is the newest one. -/
def State.hostWrite (s : State) (a : Nat) (b : Byte) : State :=
  { s with
    mem := Memory.write s.mem a b
    taint := s.taint || s.inFlight a
    stale := s.stale.filter (fun x => x != a) }

/-- The addresses a host's cache holds newer bytes for, after a store that is cleaned or is not (R85). -/
def State.dirtyAfterStore (s : State) (a : Nat) (cleaned : Bool) : List Nat :=
  if s.platform.hostCoherent then s.dirty
  else if cleaned then s.dirty.filter (fun b => b != a)
  else a :: s.dirty.filter (fun b => b != a)

/-- One byte stored by a host. -/
def storeByte (cleaned : Bool) (a : Nat) (b : Byte) (s : State) : Host.Outcome State Fault Refusal :=
  dataAccess a (fun s => .next (({ s with dirty := s.dirtyAfterStore a cleaned }.hostWrite a b).respond .okay)) s

/-- One byte loaded by a host: any byte while the running command writes there (R79), refused where the host
skipped an invalidation (R85), else what memory holds. -/
def loadByte (a : Nat) (s : State) : Host.Outcome State Fault Refusal :=
  dataAccess a (fun s =>
    if s.inFlightDst a then
      .next ({ s with drawCount := s.drawCount + 1 }.respond (.data [Config.anyByte s.drawCount a]))
    else if !s.platform.hostCoherent && s.stale.contains a then .refused .staleRead
    else .next (s.respond (.data [Memory.read s.mem a]))) s

/-- Bytes `as` that a host had stored to and not cleaned leave its cache (log entry 7).
Those of `lost` hold any byte afterwards. -/
def State.settleDirty (s : State) (as lost : List Nat) : State :=
  { s with
    mem := Memory.fill s.mem (Config.anyByte s.drawCount) lost
    dirty := s.dirty.filter (fun a => !as.contains a)
    drawCount := s.drawCount + 1 }

/-- The block wrote this byte after any host's store to it: it lies in the DST range of a command that ended since,
inside MEM_OK (R72, R78; a store takes its byte off `stale`). -/
def State.blockWroteLast (s : State) (a : Nat) : Bool := s.stale.contains a && s.platform.memOkAt a

/-- Clean a range of the host's cache (R85).
What it writes back inside the running command's ranges is a host write (R79, R80).
A byte both dirty and stale was written by the host and by the block with nothing to order the two in memory. -/
def cleanCache (r : Range) (s : State) : Host.Outcome State Fault Refusal :=
  let as := s.dirty.filter r.holds
  .next (if s.platform.hostCoherent then s
    else { s.settleDirty as (as.filter s.stale.contains) with taint := s.taint || as.any s.inFlight })

/-- Invalidate a range of the host's cache (R85): the cached copies are dropped and nothing is written, so that a
byte the block wrote last is in memory as the block wrote it (R78).
Any other dirty byte is lost: what memory held before the store is not recorded (log entry 7). -/
def invalidateCache (r : Range) (s : State) : Host.Outcome State Fault Refusal :=
  let as := s.dirty.filter r.holds
  .next (if s.platform.hostCoherent then s
    else { s.settleDirty as (as.filter (fun a => !s.blockWroteLast a)) with
      stale := s.stale.filter (fun a => !r.holds a) })

/-- One statement of the host script, already taken off it (R110).
MEM stores its first byte and leaves the rest in the script: each byte is an access of its own (R70). -/
def hostAccess (op : HostOp) (s : State) : Host.Outcome State Fault Refusal :=
  match op with
  | .write offset lanes => registerWrite offset lanes s
  | .read offset size => registerRead offset size s
  | .poll r mask value => pollRegister r mask value s
  | .mem _ [] => .next s
  | .mem a (b :: bs) => storeByte true a b { s with script := .mem (a + 1) bs :: s.script }
  | .store a b => storeByte false a b s
  | .load a => loadByte a s
  | .clean a len => cleanCache { base := a, size := len } s
  | .invalidate a len => invalidateCache { base := a, size := len } s

/-- A host's turn: its next access, or none when the script is at its end. -/
def hostStep (s : State) : Host.Outcome State Fault Refusal :=
  match s.script with
  | [] => .next s
  | op :: rest => hostAccess op { s with script := rest }

/-- One agent's step (R10). -/
def agentStep (a : Agent) (s : State) : Host.Outcome State Fault Refusal :=
  match a with
  | .host => hostStep s
  | .engine => engineStep s
  | .reset => .next s.assertReset
  | .release => .next s.releaseReset

/-- Whose turn it is: as the schedule says; past its end reset is released, a running command completes before a
host goes on, and then the host moves (R292: every accepted command is completed in the end). -/
def State.nextAgent (s : State) : Agent :=
  match s.schedule with
  | a :: _ => a
  | [] => if s.inReset then .release else if s.busy then .engine else .host

/-- `WR REG, value` (R110, R112). -/
def HostOp.wr (r : Reg) (value : Word) : HostOp := .write r.offset (lanesOfWord value)

/-- `RD REG` (R110). -/
def HostOp.rd (r : Reg) : HostOp := .read r.offset .word

/-- The pseudo-instruction of a command: one WR CMD (R111). -/
def HostOp.command (i : Instr) : HostOp := .wr .cmd (encodeWord i)

/-- WAIT: poll STATUS until BUSY is 0 (R111). -/
def HostOp.wait : HostOp := .poll .status 1#32 0#32

/-- The encoding of a register statement: its offset, and for a write its data (R112). -/
def HostOp.encoding : HostOp → Option (BitVec 6 × Option Word)
  | .write offset lanes => (wordOfLanes lanes).map (fun d => (offset, some d))
  | .read offset _ => some (offset, none)
  | .poll r _ _ => some (r.offset, none)
  | .mem _ _ => none
  | .store _ _ => none
  | .load _ => none
  | .clean _ _ => none
  | .invalidate _ _ => none

/-- A state whose very next step is a host's access `op`: it is first in the script, the host is first in the
schedule, and reset is released. -/
def State.withAccess (s : State) (op : HostOp) : State :=
  { s with script := op :: s.script, schedule := .host :: s.schedule, inReset := false }

end Sys2Proof.Machine
end

