-- ==== Sys2Proof/Machine/Step.lean ====
section
/-! DEFINITION. One step of the machine: the agent whose turn it is moves (R10). -/

namespace Sys2Proof.Machine

def step (s : State) : Host.Outcome State Fault Refusal :=
  agentStep s.nextAgent { s with schedule := s.schedule.tail }

/-- `s` with a CMD write of the word as its very next access: the block fetches no instructions (R84), so this is
how a command reaches it (R100, log entry 6). -/
def State.withFetchWord (s : State) (nbits w : Nat) : State := s.withAccess (.wr .cmd (tableWord nbits w))

end Sys2Proof.Machine
end

