-- ==== Sys2Proof/Safety.lean ====
section
/-! DEFINITION. What the claims are stated in terms of: the conditions under which the spec lets a frame be
processed, the invariants of the machine, and what a safe run is. -/

namespace Sys2Proof.Machine

/-- The state a step answers, where it answers one. -/
def nextOf (o : Host.Outcome State Fault Refusal) : Option State :=
  match o with
  | .next t => some t
  | .fault _ => none
  | .refused _ => none

/-- The four invariants of rule R44. -/
abbrev State.StatusInv (s : State) : Prop :=
  (s.status.done = true → s.status.err = false) ∧
  (s.status.err = false ↔ s.status.errCode = .noError) ∧
  (s.busy = true → s.status.initDone = true) ∧
  (s.busy = true → s.status.done = false ∧ s.status.err = false)

/-- What the checks of R215 to R218 and the launch duty of R73 leave of a snapshot, in plain numbers. -/
abbrev Snapshot.Valid (c : Snapshot) (p : Platform) : Prop :=
  c.src ≠ 0#32 ∧ c.dst ≠ 0#32 ∧
  (2 ≤ c.w.toNat ∧ c.w.toNat ≤ p.maxWidth ∧ c.w.toNat % 2 = 0) ∧
  (2 ≤ c.h.toNat ∧ c.h.toNat ≤ p.maxHeight ∧ c.h.toNat % 2 = 0) ∧
  c.src.toNat + srcLength c.w.toNat c.h.toNat ≤ 4294967296 ∧
  c.dst.toNat + dstLength c.w.toNat c.h.toNat ≤ 4294967296 ∧
  (c.src.toNat + srcLength c.w.toNat c.h.toNat ≤ c.dst.toNat ∨
    c.dst.toNat + dstLength c.w.toNat c.h.toNat ≤ c.src.toNat) ∧
  p.overDevice c.srcRange = false ∧ p.overDevice c.dstRange = false ∧
  c.srcMem.length = srcLength c.w.toNat c.h.toNat

/-- What holds of a running command: its snapshot passed the checks, and unless TAINT is set its S_MEM is what the
SRC range holds (R87) and no host store to the SRC range waits in a cache (R77). -/
abbrev State.RunInv (s : State) : Prop :=
  match s.engine with
  | .idle => s.taint = false
  | .busy c =>
    c.Valid s.platform ∧
    (s.taint = false → c.srcMem = Memory.readRange s.mem c.srcRange) ∧
    (s.taint = false → s.dirty.any c.srcRange.holds = false)

/-- The model's record of the host's cache: nothing on a coherent platform (R85), only addresses that exist. -/
abbrev State.CacheInv (s : State) : Prop :=
  (s.platform.hostCoherent = true → s.dirty = [] ∧ s.stale = []) ∧
  s.dirty.all (fun a => decide (a < Config.addressSpace)) = true

/-- While reset is asserted the block stands at its reset values (R45, R280). -/
abbrev State.ResetInv (s : State) : Prop :=
  s.inReset = true →
    s.irqEn = false ∧ s.status = Status.reset ∧ s.srcAddr = 0#32 ∧ s.dstAddr = 0#32 ∧ s.width = 0#16 ∧
    s.height = 0#16 ∧ s.cycles = 0#32 ∧ s.engine = .idle

/-- The invariant of the whole machine. -/
structure State.Inv (s : State) : Prop where
  status : s.StatusInv
  run : s.RunInv
  cache : s.CacheInv
  reset : s.ResetInv
  memory : Memory.wf s.mem = true

/-- A PROCESS word written now passes every check (R213 to R218), in plain numbers, and is a launch the spec gives
a result for (R73, R85). -/
structure State.Launchable (s : State) : Prop where
  idle : s.busy = false
  initialized : s.status.initDone = true
  present : s.srcAddr ≠ 0#32 ∧ s.dstAddr ≠ 0#32
  widthOk : 2 ≤ s.width.toNat ∧ s.width.toNat ≤ s.platform.maxWidth ∧ s.width.toNat % 2 = 0
  heightOk : 2 ≤ s.height.toNat ∧ s.height.toNat ≤ s.platform.maxHeight ∧ s.height.toNat % 2 = 0
  srcFits : s.srcAddr.toNat + 3 * s.width.toNat * s.height.toNat / 2 ≤ 4294967296
  dstFits : s.dstAddr.toNat + 3 * s.width.toNat * s.height.toNat ≤ 4294967296
  apart : s.srcAddr.toNat + 3 * s.width.toNat * s.height.toNat / 2 ≤ s.dstAddr.toNat ∨
    s.dstAddr.toNat + 3 * s.width.toNat * s.height.toNat ≤ s.srcAddr.toNat
  ordinary : s.platform.overDevice s.srcRange = false ∧ s.platform.overDevice s.dstRange = false
  cleaned : s.platform.hostCoherent = true ∨ s.dirty.any s.srcRange.holds = false

/-- Every byte of the two ranges the parameter registers name is in MEM_OK (R72). -/
abbrev State.Accessible (s : State) : Prop :=
  (∀ k, k < 3 * s.width.toNat * s.height.toNat / 2 → s.platform.memOkAt (s.srcAddr.toNat + k) = true) ∧
  (∀ k, k < 3 * s.width.toNat * s.height.toNat → s.platform.memOkAt (s.dstAddr.toNat + k) = true)

/-- `m` is the nearest integer to the square root of `n`: `m - 1/2 < √n < m + 1/2`, squared and times 4 (R194). -/
abbrev NearestRoot (m n : Nat) : Prop := 4 * n < (2 * m + 1) * (2 * m + 1) ∧ (m = 0 ∨ (2 * m - 1) * (2 * m - 1) < 4 * n)

/-- The word of a command that starts a frame in a mode (R103, R105). -/
def Mode.instr : Mode → Instr
  | .raw => .processRaw
  | .gray => .processGray
  | .edge => .processEdge

/-- A step is safe when it answers a state and no host duty is broken in it (R79, R80, R286). -/
def safeStep (s : State) : Bool :=
  match step s with
  | .next t => !t.taint
  | .fault _ => false
  | .refused _ => false

/-- A run is safe when every step of it is. -/
def safeRun : Nat → State → Bool
  | 0, s => !s.taint
  | k + 1, s =>
    match step s with
    | .next t => !t.taint && safeRun k t
    | .fault _ => false
    | .refused _ => false

end Sys2Proof.Machine
end

