-- ==== Sys2Proof/Certificates/Slice0/Obligations.lean ====
section
/-! DEFINITION. The statements for the provers, from the numbered rules of the spec. -/

open Sys2Proof Sys2Proof.Machine

/-! ### Encoding -/

/-- R105, R66: the six command words, written out lane by lane, decode to their commands. -/
def Obligations.LegalWordsDecode : Prop :=
  decode [0x00#8, 0x00#8, 0x00#8, 0x00#8] = .ok .nop ∧
  decode [0x01#8, 0x00#8, 0x00#8, 0x00#8] = .ok .init ∧
  decode [0x02#8, 0x00#8, 0x00#8, 0x00#8] = .ok .processRaw ∧
  decode [0x12#8, 0x00#8, 0x00#8, 0x00#8] = .ok .processGray ∧
  decode [0x22#8, 0x00#8, 0x00#8, 0x00#8] = .ok .processEdge ∧
  decode [0x32#8, 0x00#8, 0x00#8, 0x00#8] = .ok .processRsvd

/-- R105: decode and encode agree in both directions, on any bytes at all. -/
def Obligations.DecodeIffEncode : Prop :=
  ∀ (lanes : List Byte) (i : Instr), decode lanes = .ok i ↔ lanes = encode i

/-- R106: which words are illegal. -/
def Obligations.IllegalWordsExactly : Prop :=
  ∀ w : Word, (∃ r, decode (lanesOfWord w) = .error r) ↔
    (w.extractLsb' 6 26 ≠ 0#26 ∨ 3 ≤ (w.extractLsb' 0 4).toNat ∨
      ((w.extractLsb' 0 4).toNat ≤ 1 ∧ w.extractLsb' 4 2 ≠ 0#2))

/-- R66: register bit 8·k + b travels in bit b of byte lane k, and four lanes give the word back. -/
def Obligations.ByteLanesLittleEndian : Prop :=
  ∀ w : Word, wordOfLanes (lanesOfWord w) = some w ∧
    ∀ k b : Nat, k < 4 → b < 8 → ((lanesOfWord w).getD k 0#8).getLsbD b = w.getLsbD (8 * k + b)

/-! ### The step and the command entry -/

/-- A step whose turn is a host's and whose next access writes a command's bytes to CMD answers what `exec` answers
for that command, on the state with the access taken off the script, its turn off the schedule, and an okay
response given (R100, R137, R293). -/
def Obligations.StepRunsDecodedCommand : Prop :=
  (∀ (s : State) (lanes : List Byte) (i : Instr) (rest : List HostOp),
    s.inReset = false → s.nextAgent = .host → s.script = .write 0x08#6 lanes :: rest → decode lanes = .ok i →
    step s = exec i { s with script := rest, schedule := s.schedule.tail, responses := .okay :: s.responses }) ∧
  (∀ (s : State) (w : Word) (i : Instr), decode (lanesOfWord w) = .ok i →
    step (s.withFetchWord 32 w.toNat) = exec i { s with inReset := false, responses := .okay :: s.responses })

/-- R210: a non-NOP word written while BUSY, legal or not, sets REJECT and nothing else; NOP never does.
Written while idle, it is evaluated with the previous result cleared (R212). -/
def Obligations.CommandEntry : Prop :=
  ∀ (s : State) (w : Word),
    (w = 0#32 → commandWrite (lanesOfWord w) s = .next s) ∧
    (w ≠ 0#32 → s.busy = true →
      commandWrite (lanesOfWord w) s = .next { s with status := { s.status with reject := true } }) ∧
    (w ≠ 0#32 → s.busy = false →
      commandWrite (lanesOfWord w) s =
        commandWrite (lanesOfWord w)
          { s with status := { s.status with done := false, err := false, errCode := .noError } })

/-- R106, R212: an illegal word evaluated while idle fails with ILLEGAL_CMD and changes nothing but STATUS. -/
def Obligations.IllegalCommandFails : Prop :=
  ∀ (s : State) (w : Word) (r : DecodeReject), s.busy = false → decode (lanesOfWord w) = .error r →
    commandWrite (lanesOfWord w) s =
      .next { s with status := { s.status with done := false, err := true, errCode := .illegalCmd } }

/-! ### Commands -/

/-- R211: NOP, the word 0x00000000, writes no state, whatever the engine does. -/
def Obligations.NopWritesNothing : Prop := decodeWord 0x00000000#32 = .ok .nop ∧ ∀ s : State, exec .nop s = .next s

/-- R220: INIT written while idle sets INIT_DONE and DONE and changes nothing but STATUS, a second INIT changes
nothing more, and after reset STATUS is 0x00010002. -/
def Obligations.InitSucceeds : Prop :=
  (∀ s : State, s.busy = false →
    exec .init s =
      .next { s with status :=
        { done := true, err := false, reject := s.status.reject, errCode := .noError, initDone := true } }) ∧
  (∀ s t : State, s.busy = false → exec .init s = .next t → exec .init t = .next t) ∧
  (∃ t : State, exec .init State.reset = .next t ∧ statusWord t = 0x00010002#32)

/-- R210: INIT and every PROCESS form written while BUSY set REJECT and change nothing else. -/
def Obligations.BusyCommandsRejected : Prop :=
  ∀ (s : State) (i : Instr), s.busy = true → i ≠ .nop →
    exec i s = .next { s with status := { s.status with reject := true } }

/-- R213: every PROCESS form evaluated with INIT_DONE = 0 fails with NOT_INIT, before any other check. -/
def Obligations.ProcessNeedsInit : Prop :=
  ∀ (s : State) (i : Instr), s.busy = false → s.status.initDone = false → i ≠ .nop → i ≠ .init →
    exec i s = .next { s with status := { s.status with done := false, err := true, errCode := .notInit } }

/-- R214: the reserved mode fails with BAD_MODE once INIT_DONE is 1, whatever the parameter registers hold. -/
def Obligations.ReservedModeFails : Prop :=
  ∀ s : State, s.busy = false → s.status.initDone = true →
    exec .processRsvd s =
      .next { s with status := { s.status with done := false, err := true, errCode := .badMode } }

/-- R215 to R218: the four checks on the parameter registers, in order, in the spec's own arithmetic. -/
def Obligations.ParameterChecksInOrder : Prop :=
  ∀ (s : State) (m : Mode), s.busy = false → s.status.initDone = true →
    let W := s.width.toNat
    let H := s.height.toNat
    let S := s.srcAddr.toNat
    let D := s.dstAddr.toNat
    let absent := S = 0 ∨ D = 0 ∨ W = 0 ∨ H = 0
    let geometry := W % 2 = 1 ∨ H % 2 = 1 ∨ s.platform.maxWidth < W ∨ s.platform.maxHeight < H
    let past := 2 ^ 32 < S + 3 * W * H / 2 ∨ 2 ^ 32 < D + 3 * W * H
    let overlap := S < D + 3 * W * H ∧ D < S + 3 * W * H / 2
    let fails := fun c : ErrorCode =>
      exec m.instr s = .next { s with status := { s.status with done := false, err := true, errCode := c } }
    (absent → fails .badInput) ∧
    (¬absent → geometry → fails .badGeometry) ∧
    (¬absent → ¬geometry → past → fails .range) ∧
    (¬absent → ¬geometry → ¬past → overlap → fails .overlap)

/-- R219: a PROCESS form that passes every check is accepted: the engine is BUSY with the snapshot of the registers
and of the SRC bytes, TAINT is 0, the previous result is cleared, and nothing else changes.
From an otherwise clear STATUS it leaves 0x00010001. -/
def Obligations.ProcessAccepted : Prop :=
  ∀ (s : State) (m : Mode), s.Launchable →
    ∃ t : State,
      exec m.instr s = .next t ∧
      t = { s with
        engine := .busy
          { src := s.srcAddr
            dst := s.dstAddr
            w := s.width
            h := s.height
            mode := m
            srcMem := (List.range (3 * s.width.toNat * s.height.toNat / 2)).map
              (fun k => Memory.read s.mem (s.srcAddr.toNat + k)) }
        taint := false
        status := { s.status with done := false, err := false, errCode := .noError } } ∧
      (s.status.reject = false → statusWord t = 0x00010001#32)

/-- R73, R85: `exec` never faults, and refuses exactly a PROCESS that passes its checks and whose launch the spec has
a model refuse: a range over a device, or an uncleaned SRC range on a platform that is not coherent.
That these are looked at after the checks is log entry 8. -/
def Obligations.LaunchRefusals : Prop :=
  (∀ (s : State) (i : Instr),
    (∀ f, exec i s ≠ .fault f) ∧
    (∀ r, exec i s = .refused r →
      (∃ m : Mode, i = m.instr) ∧ s.busy = false ∧ s.status.initDone = true ∧ s.parameterError = none ∧
      ((r = .bufferOverDevice ∧
          (s.platform.overDevice s.srcRange = true ∨ s.platform.overDevice s.dstRange = true)) ∨
        (r = .sourceNotCleaned ∧ s.platform.hostCoherent = false ∧ ∃ a ∈ s.dirty, s.srcRange.holds a = true)))) ∧
  (∀ (s : State) (m : Mode), s.busy = false → s.status.initDone = true → s.parameterError = none →
    (s.platform.overDevice s.srcRange = true ∨ s.platform.overDevice s.dstRange = true →
      exec m.instr s = .refused .bufferOverDevice) ∧
    (s.platform.overDevice s.srcRange = false → s.platform.overDevice s.dstRange = false →
      s.platform.hostCoherent = false → (∃ a ∈ s.dirty, s.srcRange.holds a = true) →
      exec m.instr s = .refused .sourceNotCleaned))

/-- R240, R245, R137, R226: what any command leaves alone in the step that evaluates it. Every register a host
writes, CYCLES, and every byte of memory stay; INIT_DONE and REJECT are never cleared; INIT_DONE is set only by INIT
and REJECT only while BUSY; a running command's snapshot stays. -/
def Obligations.EvaluationFrame : Prop :=
  ∀ (s t : State) (i : Instr), exec i s = .next t →
    t = { s with status := t.status, engine := t.engine, taint := t.taint } ∧
    (∀ a, Memory.read t.mem a = Memory.read s.mem a) ∧
    (s.status.initDone = true → t.status.initDone = true) ∧
    (i ≠ .init → t.status.initDone = s.status.initDone) ∧
    (s.busy = false → t.status.reject = s.status.reject) ∧
    (s.status.reject = true → t.status.reject = true) ∧
    (s.busy = true → t.engine = s.engine ∧ t.taint = s.taint ∧ t.status.done = s.status.done ∧
      t.status.err = s.status.err ∧ t.status.errCode = s.status.errCode)

/-! ### Registers -/

/-- R132, R134, R136, R138, R145: what a read of each register returns; nothing but the response changes.
STATUS is given as the sum of its bits. -/
def Obligations.RegisterReads : Prop :=
  ∀ s : State, s.inReset = false →
    let answers := fun (offset : BitVec 6) (v : Word) =>
      hostAccess (.read offset .word) s = .next { s with responses := .data (lanesOfWord v) :: s.responses }
    answers 0x00#6 0x4E563231#32 ∧
    answers 0x04#6 (if s.irqEn then 1#32 else 0#32) ∧
    answers 0x08#6 0#32 ∧
    answers 0x0C#6 (BitVec.ofNat 32
      (s.busy.toNat + 2 * s.status.done.toNat + 4 * s.status.err.toNat + 8 * s.status.reject.toNat +
        256 * s.status.errCode.code.toNat + 65536 * s.status.initDone.toNat)) ∧
    answers 0x10#6 s.srcAddr ∧
    answers 0x14#6 s.dstAddr ∧
    answers 0x18#6 (BitVec.ofNat 32 s.width.toNat) ∧
    answers 0x1C#6 (BitVec.ofNat 32 s.height.toNat) ∧
    answers 0x20#6 s.cycles ∧
    (∀ offset ∈ [0x24#6, 0x28#6, 0x2C#6, 0x30#6, 0x34#6, 0x38#6, 0x3C#6], answers offset 0#32)

/-- R133, R135, R140 to R145: what a write of each register but CMD and STATUS does. -/
def Obligations.RegisterWrites : Prop :=
  ∀ (s : State) (d : Word), s.inReset = false →
    let writes := fun (offset : BitVec 6) (t : State) =>
      hostAccess (.write offset (lanesOfWord d)) s = .next { t with responses := .okay :: s.responses }
    writes 0x00#6 s ∧
    writes 0x04#6 { s with irqEn := d.getLsbD 0 } ∧
    writes 0x10#6 { s with srcAddr := d } ∧
    writes 0x14#6 { s with dstAddr := d } ∧
    writes 0x18#6 { s with width := BitVec.ofNat 16 (d.toNat % 65536) } ∧
    writes 0x1C#6 { s with height := BitVec.ofNat 16 (d.toNat % 65536) } ∧
    writes 0x20#6 s ∧
    (∀ offset ∈ [0x24#6, 0x28#6, 0x2C#6, 0x30#6, 0x34#6, 0x38#6, 0x3C#6], writes offset s)

/-- R139: write-1-to-clear of STATUS. Writing 0 changes nothing, writing all ones clears DONE, ERR, ERR_CODE and
REJECT; BUSY, INIT_DONE and a running command stay. IRQ follows at once. -/
def Obligations.StatusWriteOneToClear : Prop :=
  (∀ (s : State) (d : Word), s.inReset = false →
    ∃ t : State,
      hostAccess (.write 0x0C#6 (lanesOfWord d)) s = .next t ∧
      t = { s with status := t.status, responses := .okay :: s.responses } ∧
      t.status.done = (if d.getLsbD 1 then false else s.status.done) ∧
      t.status.err = (if d.getLsbD 2 then false else s.status.err) ∧
      t.status.errCode = (if d.getLsbD 2 then .noError else s.status.errCode) ∧
      t.status.reject = (if d.getLsbD 3 then false else s.status.reject) ∧
      t.status.initDone = s.status.initDone ∧ t.busy = s.busy ∧
      t.irq = (s.irqEn && (t.status.done || t.status.err)) ∧
      (d = 0#32 → t.status = s.status) ∧
      (d = 0xFFFFFFFF#32 → t.status =
        { done := false, err := false, reject := false, errCode := .noError, initDone := s.status.initDone })) ∧
  (∀ s t : State, s.inReset = false → statusWord s = 0x00010304#32 →
    hostAccess (.write 0x0C#6 (lanesOfWord 0x4#32)) s = .next t → statusWord t = 0x00010000#32)

/-- R131: a register access of 8 or 16 bits, or not at a multiple of 4, gets a bus error response and
changes no state of the block. -/
def Obligations.UnadmittedAccessChangesNothing : Prop :=
  ∀ (s : State), s.inReset = false →
    (∀ (offset : BitVec 6) (lanes : List Byte),
      lanes.length = 1 ∨ lanes.length = 2 ∨ (lanes.length = 4 ∧ offset.toNat % 4 ≠ 0) →
      hostAccess (.write offset lanes) s = .next { s with responses := .busError :: s.responses }) ∧
    (∀ (offset : BitVec 6) (size : AccessSize), offset.toNat % 4 ≠ 0 ∨ size ≠ .word →
      hostAccess (.read offset size) s = .next { s with responses := .busError :: s.responses })

/-- R146, R288: a register access at any offset but that of CMD leaves the running command and its snapshot, TAINT,
CYCLES, INIT_DONE and every byte of memory as they were. -/
def Obligations.RegisterAccessFrame : Prop :=
  ∀ (s t : State) (op : HostOp),
    ((∃ offset lanes, offset ≠ 0x08#6 ∧ op = .write offset lanes) ∨ (∃ offset size, op = .read offset size) ∨
      (∃ r mask value, op = .poll r mask value)) →
    hostAccess op s = .next t →
      t.engine = s.engine ∧ t.taint = s.taint ∧ t.cycles = s.cycles ∧ t.status.initDone = s.status.initDone ∧
      t.mem = s.mem ∧ t.platform = s.platform ∧ t.dirty = s.dirty ∧ t.stale = s.stale ∧
      (∀ a, Memory.read t.mem a = Memory.read s.mem a)

/-- R42, R251: IRQ is IRQ_EN and (DONE or ERR), with REJECT no part of it; a CTRL write masks or unmasks it in the
same step, INIT raises it when enabled, and acknowledging DONE and ERR lowers it. -/
def Obligations.InterruptOutput : Prop :=
  (∀ s : State, s.irq = true ↔ s.irqEn = true ∧ (s.status.done = true ∨ s.status.err = true)) ∧
  (∀ s : State, ({ s with status := { s.status with reject := !s.status.reject } } : State).irq = s.irq) ∧
  (∀ (s : State) (d : Word), s.inReset = false → ∃ t : State,
    hostAccess (.write 0x04#6 (lanesOfWord d)) s = .next t ∧
    t.irq = (d.getLsbD 0 && (s.status.done || s.status.err))) ∧
  (∀ s : State, s.busy = false → s.irqEn = true → ∃ t : State, exec .init s = .next t ∧ t.irq = true) ∧
  (∀ s : State, s.inReset = false → ∃ t : State,
    hostAccess (.write 0x0C#6 (lanesOfWord 0x6#32)) s = .next t ∧ t.irq = false)

/-- R110: POLL reads the register once a step and stays first in the script until the value is the one waited for
(log entry 4). -/
def Obligations.PollRepeats : Prop :=
  ∀ (s : State) (r : Reg) (mask value : Word) (rest : List HostOp),
    s.inReset = false → s.script = .poll r mask value :: rest →
    hostStep s = .next { s with
      script := if readReg s r &&& mask = value then rest else .poll r mask value :: rest
      responses := .data (lanesOfWord (readReg s r)) :: s.responses }

/-! ### Completion -/

/-- R223, R163 to R165, R62: PROCESS.RAW from a state in which it may be launched, and then the engine's step, leave
in the DST range the converted frame of the bytes memory held, every other byte of memory as it was, and DONE = 1. -/
def Obligations.RawCommandConvertsFrame : Prop :=
  ∀ s : State, s.Launchable → s.Accessible →
    let W := s.width.toNat
    let H := s.height.toNat
    let S := fun k : Nat => ((Memory.read s.mem (s.srcAddr.toNat + k)).toNat : Int)
    ∃ t u : State, exec .processRaw s = .next t ∧ engineStep t = .next u ∧
      u.busy = false ∧ u.status.done = true ∧ u.status.err = false ∧
      (∀ i j, i < W → j < H →
        let Y := S (j * W + i)
        let V := S (W * H + j / 2 * W + 2 * (i / 2))
        let U := S (W * H + j / 2 * W + 2 * (i / 2) + 1)
        let a := s.dstAddr.toNat + 3 * (j * W + i)
        (Memory.read u.mem a).toNat = clamp8 ((1000000 * Y + 1370705 * (V - 128)) / 1000000) ∧
        (Memory.read u.mem (a + 1)).toNat =
          clamp8 ((1000000 * Y - 698001 * (V - 128) - 337633 * (U - 128)) / 1000000) ∧
        (Memory.read u.mem (a + 2)).toNat = clamp8 ((1000000 * Y + 1732446 * (U - 128)) / 1000000)) ∧
      (∀ a, a < s.dstAddr.toNat ∨ s.dstAddr.toNat + 3 * W * H ≤ a → Memory.read u.mem a = Memory.read s.mem a)

/-- R224, R180, R183: PROCESS.GRAY and then the engine's step leave the luma of every converted pixel in its three
channels. -/
def Obligations.GrayCommandReducesFrame : Prop :=
  ∀ s : State, s.Launchable → s.Accessible →
    let W := s.width.toNat
    let H := s.height.toNat
    let S := fun k : Nat => (Memory.read s.mem (s.srcAddr.toNat + k)).toNat
    ∃ t u : State, exec .processGray s = .next t ∧ engineStep t = .next u ∧
      u.busy = false ∧ u.status.done = true ∧ u.status.err = false ∧
      (∀ i j c, i < W → j < H → c < 3 →
        let p := convertPixel (S (j * W + i)) (S (W * H + j / 2 * W + 2 * (i / 2) + 1))
          (S (W * H + j / 2 * W + 2 * (i / 2)))
        (Memory.read u.mem (s.dstAddr.toNat + 3 * (j * W + i) + c)).toNat =
          (299 * p.r + 587 * p.g + 114 * p.b) / 1000) ∧
      (∀ a, a < s.dstAddr.toNat ∨ s.dstAddr.toNat + 3 * W * H ≤ a → Memory.read u.mem a = Memory.read s.mem a)

/-- R225, R191 to R196: PROCESS.EDGE and then the engine's step leave 0 on the border, and inside it the nearest
integer to the length of the Sobel gradient of the luma frame, at most 255, in all three channels. -/
def Obligations.EdgeCommandDetectsEdges : Prop :=
  ∀ s : State, s.Launchable → s.Accessible →
    let W := s.width.toNat
    let H := s.height.toNat
    let S := fun k : Nat => (Memory.read s.mem (s.srcAddr.toNat + k)).toNat
    let I := fun i j : Nat => (luma (convertPixel (S (j * W + i)) (S (W * H + j / 2 * W + 2 * (i / 2) + 1))
      (S (W * H + j / 2 * W + 2 * (i / 2)))) : Int)
    ∃ t u : State, exec .processEdge s = .next t ∧ engineStep t = .next u ∧
      u.busy = false ∧ u.status.done = true ∧ u.status.err = false ∧
      (∀ x y c, x < W → y < H → c < 3 → x = 0 ∨ y = 0 ∨ x + 1 = W ∨ y + 1 = H →
        Memory.read u.mem (s.dstAddr.toNat + 3 * (y * W + x) + c) = 0#8) ∧
      (∀ x y c, x + 2 < W → y + 2 < H → c < 3 →
        let gx := -I x y - 2 * I x (y + 1) - I x (y + 2) + I (x + 2) y + 2 * I (x + 2) (y + 1) + I (x + 2) (y + 2)
        let gy := -I x y - 2 * I (x + 1) y - I (x + 2) y + I x (y + 2) + 2 * I (x + 1) (y + 2) + I (x + 2) (y + 2)
        ∃ n m : Nat, (n : Int) = gx * gx + gy * gy ∧ NearestRoot m n ∧
          (Memory.read u.mem (s.dstAddr.toNat + 3 * ((y + 1) * W + (x + 1)) + c)).toNat = min 255 m) ∧
      (∀ a, a < s.dstAddr.toNat ∨ s.dstAddr.toNat + 3 * W * H ≤ a → Memory.read u.mem a = Memory.read s.mem a)

/-- R72, R246: a command with an address outside MEM_OK completes with BUS_ERROR. The registers a host writes and
every byte of memory but the DST bytes inside MEM_OK stay; those hold any byte, so nothing is said of them. -/
def Obligations.BusErrorCompletion : Prop :=
  ∀ (s : State) (c : Snapshot), s.engine = .busy c →
    (∃ a, (c.srcRange.holds a = true ∨ c.dstRange.holds a = true) ∧ s.platform.memOkAt a = false) →
    ∃ t : State,
      engineStep s = .next t ∧ t.engine = .idle ∧ t.taint = false ∧
      t.status = { s.status with err := true, errCode := .busError } ∧
      t.irqEn = s.irqEn ∧ t.srcAddr = s.srcAddr ∧ t.dstAddr = s.dstAddr ∧ t.width = s.width ∧ t.height = s.height ∧
      (∀ a, c.dstRange.holds a = false ∨ s.platform.memOkAt a = false → Memory.read t.mem a = Memory.read s.mem a)

/-- R43, R222: a command whose buffers the host wrote to while BUSY still completes with DONE, and writes nothing
outside its DST range; what that range holds is any bytes, so nothing is said of it. -/
def Obligations.TaintedCompletion : Prop :=
  ∀ (s : State) (c : Snapshot), s.engine = .busy c → s.taint = true →
    (∀ a, c.srcRange.holds a = true ∨ c.dstRange.holds a = true → s.platform.memOkAt a = true) →
    ∃ t : State,
      engineStep s = .next t ∧ t.engine = .idle ∧ t.taint = false ∧ t.status = { s.status with done := true } ∧
      (∀ a, c.dstRange.holds a = false → Memory.read t.mem a = Memory.read s.mem a)

/-- R226, R246, R71: whatever a completion's outcome, it writes no byte outside the DST range, hence no byte of the
SRC range of a valid snapshot, and none of the registers a host writes; REJECT and INIT_DONE stay.
In the model's record of the hosts' cache (log entry 7) the DST range is stale from then on where the platform is not
coherent (R85), and nothing else of the record changes.
With no command running the engine's step changes nothing. -/
def Obligations.CompletionFrame : Prop :=
  (∀ (s : State) (c : Snapshot), s.engine = .busy c →
    ∃ t : State, engineStep s = .next t ∧ t.busy = false ∧
      (∀ a, c.dstRange.holds a = false → Memory.read t.mem a = Memory.read s.mem a) ∧
      (c.Valid s.platform → ∀ a, c.srcRange.holds a = true → Memory.read t.mem a = Memory.read s.mem a) ∧
      t.irqEn = s.irqEn ∧ t.srcAddr = s.srcAddr ∧ t.dstAddr = s.dstAddr ∧ t.width = s.width ∧ t.height = s.height ∧
      t.status.reject = s.status.reject ∧ t.status.initDone = s.status.initDone ∧ t.inReset = s.inReset ∧
      t.platform = s.platform ∧ t.script = s.script ∧ t.schedule = s.schedule ∧ t.responses = s.responses ∧
      t.dirty = s.dirty ∧ (s.platform.hostCoherent = true → t.stale = s.stale) ∧
      (s.platform.hostCoherent = false → ∀ a, a ∈ t.stale ↔ a ∈ s.stale ∨ c.dstRange.holds a = true)) ∧
  (∀ s : State, s.engine = .idle → engineStep s = .next s)

/-- R227, R87: the bytes a successful command writes depend on S_MEM, S_W, S_H and S_MODE alone: two of them that
agree in those write the same bytes, whatever their buffers' addresses, the registers, the memory and the platform. -/
def Obligations.ResultDependsOnlyOnSnapshot : Prop :=
  ∀ (s s' t t' : State) (c c' : Snapshot), s.engine = .busy c → s'.engine = .busy c' →
    c.srcMem = c'.srcMem → c.w = c'.w → c.h = c'.h → c.mode = c'.mode →
    s.taint = false → s'.taint = false → c.accessible s.platform = true → c'.accessible s'.platform = true →
    engineStep s = .next t → engineStep s' = .next t' →
    t.status.done = true ∧ t'.status.done = true ∧
    ∀ k, k < 3 * c.w.toNat * c.h.toNat →
      Memory.read t.mem (c.dst.toNat + k) = Memory.read t'.mem (c'.dst.toNat + k)

/-- R292: while BUSY the engine's turn always completes the command, and where the schedule says nothing it is the
engine's turn: the model's choice of that order is log entry 5. -/
def Obligations.AcceptedCommandCompletes : Prop :=
  ∀ s : State, s.Inv → s.busy = true → (s.schedule = [] ∨ ∃ rest, s.schedule = .engine :: rest) →
    ∃ t : State, step s = .next t ∧ t.busy = false ∧
      ((t.status.done = true ∧ t.status.err = false) ∨
        (t.status.done = false ∧ t.status.err = true ∧ t.status.errCode = .busError))

/-! ### Reset -/

/-- R45: the machine right after reset, through the registers a host reads. -/
def Obligations.ResetValues : Prop :=
  readReg State.reset .id = 0x4E563231#32 ∧
  (∀ r : Reg, r ≠ .id → readReg State.reset r = 0#32) ∧
  State.reset.engine = .idle ∧ State.reset.irq = false ∧ State.reset.taint = false

/-- R280, R281, R282: asserting reset in any state gives every register its reset value, abandons a running command
with no completion, and writes no byte outside that command's DST range; R284: releasing it changes nothing else.
That reset is two steps is log entry 11; the record of the cache is log entry 7, and that an abandoned command's DST
range is stale in it is log entry 16. -/
def Obligations.ResetStep : Prop :=
  (∀ s : State, ∃ t : State,
    agentStep .reset s = .next t ∧ t.inReset = true ∧ t.irq = false ∧ t.taint = false ∧ t.engine = .idle ∧
    readReg t .id = 0x4E563231#32 ∧ (∀ r : Reg, r ≠ .id → readReg t r = 0#32) ∧
    t.platform = s.platform ∧ t.dirty = s.dirty ∧
    (s.busy = false ∨ s.platform.hostCoherent = true → t.stale = s.stale) ∧
    (s.busy = false → t.mem = s.mem) ∧
    (∀ c, s.engine = .busy c →
      (∀ a, c.dstRange.holds a = false → Memory.read t.mem a = Memory.read s.mem a) ∧
      (s.platform.hostCoherent = false → ∀ a, a ∈ t.stale ↔ a ∈ s.stale ∨ c.dstRange.holds a = true))) ∧
  (∀ s : State, agentStep .release s = .next { s with inReset := false })

/-! ### Rules of the whole machine -/

/-- R44: DONE and ERR exclude each other, ERR_CODE is 0 exactly when ERR is, a running command implies INIT_DONE and
neither DONE nor ERR. They hold at reset and every step keeps them. -/
def Obligations.StatusInvariantsKept : Prop :=
  State.reset.StatusInv ∧ ∀ s t : State, s.StatusInv → step s = .next t → t.StatusInv

/-- The invariant of the whole machine holds at reset. -/
def Obligations.MachineInvariantAtReset : Prop := State.reset.Inv

/-- Every step keeps the invariant of the whole machine: R44, a running command's snapshot passed the checks of R215
to R218 and, unless TAINT is set, S_MEM is what the SRC range holds (R87), memory keeps its canonical form. -/
def Obligations.MachineInvariantKept : Prop := ∀ s t : State, s.Inv → step s = .next t → t.Inv

/-- R32, R265: INIT_DONE is set only by a host's INIT and cleared only by reset. -/
def Obligations.InitDoneChanges : Prop :=
  ∀ s t : State, step s = .next t →
    (s.status.initDone = false → t.status.initDone = true →
      s.nextAgent = .host ∧ ∃ rest, s.script = .write 0x08#6 (encode .init) :: rest) ∧
    (s.status.initDone = true → t.status.initDone = false → s.nextAgent = .reset)

/-- R39, R228: the engine starts only at a host's PROCESS word, and a running command keeps its snapshot until the
engine's own step or reset: no register write and no other command stops it. -/
def Obligations.EngineTransitions : Prop :=
  ∀ s t : State, step s = .next t →
    (s.engine = .idle → t.engine = .idle ∨
      (s.nextAgent = .host ∧ ∃ (m : Mode) (rest : List HostOp), s.script = .write 0x08#6 (encode m.instr) :: rest)) ∧
    (∀ c, s.engine = .busy c → t.engine = .busy c ∨
      (t.engine = .idle ∧ (s.nextAgent = .engine ∨ s.nextAgent = .reset)))

/-- R261: CYCLES changes only when a running command completes, or at reset. -/
def Obligations.CyclesChanges : Prop :=
  ∀ s t : State, step s = .next t → t.cycles ≠ s.cycles →
    (s.nextAgent = .engine ∧ s.busy = true) ∨ s.nextAgent = .reset

/-- R30, R249: REJECT is set only by a non-NOP command word written while BUSY, and cleared only by a STATUS write
with bit 3 set or by reset. -/
def Obligations.RejectChanges : Prop :=
  ∀ s t : State, step s = .next t →
    (s.status.reject = false → t.status.reject = true →
      s.busy = true ∧ s.nextAgent = .host ∧
        ∃ w rest, w ≠ 0#32 ∧ s.script = .write 0x08#6 (lanesOfWord w) :: rest) ∧
    (s.status.reject = true → t.status.reject = false →
      s.nextAgent = .reset ∨
        (s.nextAgent = .host ∧ ∃ d rest, d.getLsbD 3 = true ∧ s.script = .write 0x0C#6 (lanesOfWord d) :: rest))

/-- R72, R226, R282: a byte of memory changes in a step only where a host's store or its cache writes it, or inside
the DST range of the command that completes or that reset abandons.
That a host's cache changes memory only where a clean or an invalidation is asked for, and only at a byte not cleaned,
is the model's choice, log entry 7. -/
def Obligations.MemoryChanges : Prop :=
  ∀ (s t : State) (a : Nat), step s = .next t → Memory.read t.mem a ≠ Memory.read s.mem a →
    ((s.nextAgent = .engine ∨ s.nextAgent = .reset) ∧ s.inFlightDst a = true) ∨
    (s.nextAgent = .host ∧ ∃ op rest, s.script = op :: rest ∧
      ((∃ b bs, op = .mem a (b :: bs)) ∨ (∃ b, op = .store a b) ∨
        (a ∈ s.dirty ∧ ∃ base len, base ≤ a ∧ a < base + len ∧ (op = .clean base len ∨ op = .invalidate base len))))

/-- R5: no step changes the parameters the block is built with. -/
def Obligations.PlatformFixed : Prop := ∀ s t : State, step s = .next t → t.platform = s.platform

/-! ### The host's data accesses -/

/-- R43, R79, R80: a host's store while BUSY sets TAINT exactly when it is to an address of the running command's
ranges, and memory takes the byte. The model's choices: memory takes it at once on every platform, and where the
platform is not coherent the address is on record as uncleaned, and as stale no more (log entry 7); it lands inside
MEM_OK or not (log entry 9). -/
def Obligations.HostStoreTaints : Prop :=
  ∀ (s : State) (a : Nat) (b : Byte), a < 2 ^ 32 → s.platform.devices.any (fun d => d.holds a) = false →
    s.platform.window.holds a = false →
    ∃ t : State, hostAccess (.store a b) s = .next t ∧
      (∀ c, s.engine = .busy c → s.taint = false →
        (t.taint = true ↔ c.srcRange.holds a = true ∨ c.dstRange.holds a = true)) ∧
      (s.taint = true → t.taint = true) ∧ t.engine = s.engine ∧ t.status = s.status ∧
      Memory.read t.mem a = b ∧ (∀ x, x ≠ a → Memory.read t.mem x = Memory.read s.mem x) ∧
      (s.platform.hostCoherent = true → t.dirty = s.dirty) ∧ (s.platform.hostCoherent = false → a ∈ t.dirty) ∧
      a ∉ t.stale ∧ (∀ x, x ≠ a → (x ∈ t.dirty ↔ x ∈ s.dirty) ∧ (x ∈ t.stale ↔ x ∈ s.stale))

/-- R80, R78: a host's load of a byte that the running command does not write, and that no ended command left stale,
answers what memory holds, and changes nothing (the record of stale bytes is log entry 7, and that MEM_OK does not
bind a host is log entry 9).
R79: a load of a byte that the running command writes is answered with some byte, and only a draw is taken. -/
def Obligations.HostLoadAnswers : Prop :=
  ∀ (s : State) (a : Nat), a < 2 ^ 32 → s.platform.devices.any (fun d => d.holds a) = false →
    s.platform.window.holds a = false →
    ((∀ c, s.engine = .busy c → c.dstRange.holds a = false) → (s.platform.hostCoherent = true ∨ a ∉ s.stale) →
      hostAccess (.load a) s = .next { s with responses := .data [Memory.read s.mem a] :: s.responses }) ∧
    (∀ c, s.engine = .busy c → c.dstRange.holds a = true → ∃ b : Byte,
      hostAccess (.load a) s =
        .next { s with drawCount := s.drawCount + 1, responses := .data [b] :: s.responses })

/-- R110: MEM stores its first byte, cleaned, and leaves the rest first in the script, each byte an access of its
own (log entry 4); with no byte left it is done. The record of the cache is log entry 7, and that the store lands
inside MEM_OK or not is log entry 9. -/
def Obligations.MemStatementStores : Prop :=
  (∀ (s : State) (a : Nat) (b : Byte) (bs : List Byte) (rest : List HostOp), s.script = .mem a (b :: bs) :: rest →
    a < 2 ^ 32 → s.platform.devices.any (fun d => d.holds a) = false → s.platform.window.holds a = false →
    ∃ t : State, hostStep s = .next t ∧ t.script = .mem (a + 1) bs :: rest ∧ t.responses = .okay :: s.responses ∧
      Memory.read t.mem a = b ∧ (∀ x, x ≠ a → Memory.read t.mem x = Memory.read s.mem x) ∧
      (s.platform.hostCoherent = true → t.dirty = s.dirty) ∧ (s.platform.hostCoherent = false → a ∉ t.dirty) ∧
      a ∉ t.stale ∧ (∀ x, x ≠ a → (x ∈ t.dirty ↔ x ∈ s.dirty) ∧ (x ∈ t.stale ↔ x ∈ s.stale)) ∧
      t.engine = s.engine ∧ t.status = s.status) ∧
  (∀ (s : State) (a : Nat) (rest : List HostOp), s.script = .mem a [] :: rest → hostStep s = .next { s with script := rest })

/-- R85, over the model's record of the cache (log entry 7): on a platform that is not coherent, cleaning a range
leaves no uncleaned byte in it, invalidating a range leaves neither an uncleaned nor a stale byte in it, and neither
touches the block; on a coherent platform neither does anything.
Cleaning leaves memory alone but at bytes both uncleaned and stale, and sets TAINT where it writes back an uncleaned
byte of the running command's ranges; invalidating leaves alone TAINT and the bytes the block wrote last (R78). -/
def Obligations.CacheMaintenance : Prop :=
  ∀ (s : State) (base len : Nat),
    (s.platform.hostCoherent = true →
      hostAccess (.clean base len) s = .next s ∧ hostAccess (.invalidate base len) s = .next s) ∧
    (s.platform.hostCoherent = false → ∀ op, op = .clean base len ∨ op = .invalidate base len →
      ∃ t : State, hostAccess op s = .next t ∧
        (∀ a ∈ t.dirty, ¬(base ≤ a ∧ a < base + len)) ∧
        (op = .invalidate base len → ∀ a ∈ t.stale, ¬(base ≤ a ∧ a < base + len)) ∧
        (∀ a, ¬(base ≤ a ∧ a < base + len) →
          (a ∈ t.dirty ↔ a ∈ s.dirty) ∧ (a ∈ t.stale ↔ a ∈ s.stale) ∧ Memory.read t.mem a = Memory.read s.mem a) ∧
        (∀ a, a ∉ s.dirty → Memory.read t.mem a = Memory.read s.mem a) ∧
        (op = .clean base len → (∀ a, a ∉ s.stale → Memory.read t.mem a = Memory.read s.mem a) ∧
          (t.taint = true ↔
            s.taint = true ∨ ∃ a ∈ s.dirty, base ≤ a ∧ a < base + len ∧ s.inFlight a = true)) ∧
        (op = .invalidate base len → t.taint = s.taint ∧
          ∀ a ∈ s.stale, s.platform.memOkAt a = true → Memory.read t.mem a = Memory.read s.mem a) ∧
        t.engine = s.engine ∧ t.status = s.status ∧ t.irqEn = s.irqEn ∧ t.srcAddr = s.srcAddr ∧
        t.dstAddr = s.dstAddr ∧ t.width = s.width ∧ t.height = s.height ∧ t.cycles = s.cycles)

/-- R60, R73, R85, R280: where a host's access stops. Any data access past the last address and at another device; a
load of a byte it has not invalidated, outside the running command's DST range, on a platform that is not coherent;
while reset is asserted every register access, POLL and one byte inside the register window among them. With reset
released, one byte inside the window gets a bus error (R131). The model's choices here are log entries 7, 9 and 11. -/
def Obligations.HostAccessStops : Prop :=
  (∀ (s : State) (a : Nat), 2 ^ 32 ≤ a → hostAccess (.load a) s = .fault .addressOutsideSpace ∧
    (∀ b, hostAccess (.store a b) s = .fault .addressOutsideSpace) ∧
    ∀ b bs, hostAccess (.mem a (b :: bs)) s = .fault .addressOutsideSpace) ∧
  (∀ (s : State) (a : Nat), a < 2 ^ 32 → s.platform.devices.any (fun d => d.holds a) = true →
    hostAccess (.load a) s = .refused .deviceAccess ∧ (∀ b, hostAccess (.store a b) s = .refused .deviceAccess) ∧
    ∀ b bs, hostAccess (.mem a (b :: bs)) s = .refused .deviceAccess) ∧
  (∀ (s : State) (a : Nat), a < 2 ^ 32 → s.platform.devices.any (fun d => d.holds a) = false →
    s.platform.window.holds a = false → (∀ c, s.engine = .busy c → c.dstRange.holds a = false) →
    s.platform.hostCoherent = false → a ∈ s.stale → hostAccess (.load a) s = .refused .staleRead) ∧
  (∀ (s : State) (offset : BitVec 6), s.inReset = true →
    (∀ size, hostAccess (.read offset size) s = .refused .registerAccessInReset) ∧
    (∀ lanes, hostAccess (.write offset lanes) s = .refused .registerAccessInReset) ∧
    ∀ r mask value, hostAccess (.poll r mask value) s = .refused .registerAccessInReset) ∧
  (∀ (s : State) (a : Nat), a < 2 ^ 32 → s.platform.devices.any (fun d => d.holds a) = false →
    s.platform.window.holds a = true →
    (s.inReset = true → hostAccess (.load a) s = .refused .registerAccessInReset ∧
      (∀ b, hostAccess (.store a b) s = .refused .registerAccessInReset) ∧
      ∀ b bs, hostAccess (.mem a (b :: bs)) s = .refused .registerAccessInReset) ∧
    (s.inReset = false →
      hostAccess (.load a) s = .next { s with responses := .busError :: s.responses } ∧
      (∀ b, hostAccess (.store a b) s = .next { s with responses := .busError :: s.responses }) ∧
      ∀ b bs, hostAccess (.mem a (b :: bs)) s =
        .next { s with script := .mem (a + 1) bs :: s.script, responses := .busError :: s.responses }))

/-! ### The datapath -/

/-- R169: the numerators of the three channels stay inside a 30-bit signed integer, with the bounds the rule gives. -/
def Obligations.ConverterBounds : Prop :=
  ∀ y u v : Nat, y ≤ 255 → u ≤ 255 → v ≤ 255 →
    (-221753088 ≤ redNumerator y v ∧ redNumerator y v ≤ 475020642) ∧
    (-131525518 ≤ greenNumerator y u v ∧ greenNumerator y u v ≤ 387561152) ∧
    (-221753088 ≤ blueNumerator y u ∧ blueNumerator y u ≤ 475020642) ∧
    blueNumerator 0 0 = -221753088 ∧ blueNumerator 255 255 = 475020642 ∧
    greenNumerator 0 255 255 = -131525518 ∧ greenNumerator 255 0 0 = 387561152

/-- R166: clamping the exact value to [0, 255] and then truncating toward zero gives the byte the floor gives. -/
def Obligations.ClampThenTruncate : Prop :=
  ∀ n : Int, (clamp8 (n / 1000000) : Int) = Int.tdiv (max 0 (min n 255000000)) 1000000

/-- R168: neutral chroma gives (Y, Y, Y); at Y = 0 other chroma does not give black. -/
def Obligations.NeutralChroma : Prop :=
  (∀ y : Nat, y ≤ 255 → convertPixel y 128 128 = { r := y, g := y, b := y }) ∧
  convertPixel 0 0 255 = { r := 174, g := 0, b := 0 } ∧ convertPixel 0 0 0 = { r := 0, g := 132, b := 0 }

/-- R162: the four pixels of a 2×2 block share one VU pair, and every chroma index lies inside the SRC range. -/
def Obligations.ChromaIndexing : Prop :=
  ∀ w h i j : Nat, w % 2 = 0 → h % 2 = 0 → i < w → j < h →
    uvIndex w i j = uvIndex w (2 * (i / 2)) (2 * (j / 2)) ∧
    uvIndex w i j = j / 2 * w + 2 * (i / 2) ∧
    uvIndex w i j + 1 ≤ w * h / 2 - 1

/-- R181, R180: the weighted sum of three bytes is at most 255000, which 18 bits hold, so their luma is at most 255;
and a gray pixel's luma is its value. -/
def Obligations.LumaRange : Prop :=
  (∀ p : Rgb, p.r ≤ 255 → p.g ≤ 255 → p.b ≤ 255 →
    299 * p.r + 587 * p.g + 114 * p.b ≤ 255000 ∧ 299 * p.r + 587 * p.g + 114 * p.b < 2 ^ 18 ∧ luma p ≤ 255) ∧
  (∀ v : Nat, luma { r := v, g := v, b := v } = v)

/-- R192, R193: the gradients of a frame of bytes stay in [-1020, 1020] and agree in parity, and neither reads the
pixel itself. -/
def Obligations.GradientBounds : Prop :=
  ∀ (I J : Nat → Nat → Nat) (x y : Nat), (∀ a b, I a b ≤ 255) → 1 ≤ x → 1 ≤ y →
    (-1020 ≤ gradientX I x y ∧ gradientX I x y ≤ 1020) ∧
    (-1020 ≤ gradientY I x y ∧ gradientY I x y ≤ 1020) ∧
    (gradientX I x y - gradientY I x y) % 2 = 0 ∧
    ((∀ a b, ¬(a = x ∧ b = y) → I a b = J a b) →
      gradientX I x y = gradientX J x y ∧ gradientY I x y = gradientY J x y)

/-- R7: `isqrt` is the largest integer whose square is at most its argument. -/
def Obligations.IsqrtIsFloorRoot : Prop :=
  ∀ n : Nat, isqrt n * isqrt n ≤ n ∧ n < (isqrt n + 1) * (isqrt n + 1)

/-- R194: the magnitude is the nearest integer to the root, and no argument is half way between two integers. -/
def Obligations.MagnitudeIsNearestRoot : Prop :=
  ∀ n : Nat, NearestRoot (roundSqrt n) n ∧ ∀ m : Nat, NearestRoot m n → m = roundSqrt n

/-- R195: an interior pixel's edge value is 255 exactly when the squared gradient is at least 64771, and is the
magnitude otherwise. -/
def Obligations.EdgeClampThreshold : Prop :=
  ∀ (I : Nat → Nat → Nat) (w h x y : Nat), 1 ≤ x → x + 2 ≤ w → 1 ≤ y → y + 2 ≤ h →
    (edgeAt I w h x y = 255 ↔ 64771 ≤ gradientSquare I x y) ∧
    (gradientSquare I x y < 64771 → edgeAt I w h x y = roundSqrt (gradientSquare I x y))

/-- R191, R198: border pixels are 0 whatever the frame holds, and a frame of two columns or two rows is all 0. -/
def Obligations.BorderIsZero : Prop :=
  ∀ (I : Nat → Nat → Nat) (w h x y : Nat), x < w → y < h →
    (y = 0 ∨ y + 1 = h ∨ x = 0 ∨ x + 1 = w → edgeAt I w h x y = 0) ∧ (w = 2 ∨ h = 2 → edgeAt I w h x y = 0)

/-- R197: a constant grayscale frame has no edges, and a frame of constant Y with neutral chroma is one. -/
def Obligations.FlatFrameHasNoEdges : Prop :=
  (∀ (I : Nat → Nat → Nat) (v w h x y : Nat), (∀ a b, a < w → b < h → I a b = v) → x < w → y < h →
    edgeAt I w h x y = 0) ∧
  (∀ (sm : List Byte) (v w h x y : Nat), w % 2 = 0 → h % 2 = 0 → sm.length = 3 * w * h / 2 →
    (∀ k, k < w * h → sample sm k = v) → (∀ k, w * h ≤ k → k < 3 * w * h / 2 → sample sm k = 128) →
    x < w → y < h → grayFrame sm w h x y = v ∧ edgeFrame sm w h x y = 0)

/-- R199: a line one pixel wide, at column c. Beside it, on the interior rows, |gx| is 1020, gy is 0 and the edge value
is 255; everywhere else in the interior gx is 0; the edge value is 0 everywhere but in those two columns. -/
def Obligations.VerticalLine : Prop :=
  ∀ (I : Nat → Nat → Nat) (w h c x y : Nat), 2 ≤ c → c + 3 ≤ w →
    (∀ a b, a < w → b < h → I a b = if a = c then 255 else 0) → x < w → y < h →
    (edgeAt I w h x y = if (x + 1 = c ∨ x = c + 1) ∧ 1 ≤ y ∧ y + 2 ≤ h then 255 else 0) ∧
    (1 ≤ x → x + 2 ≤ w → 1 ≤ y → y + 2 ≤ h →
      (x + 1 = c ∨ x = c + 1 → (gradientX I x y).natAbs = 1020 ∧ gradientY I x y = 0) ∧
      (¬(x + 1 = c ∨ x = c + 1) → gradientX I x y = 0))

/-! ### What a host reads after completion -/

/-- R78: once a command has completed, a host's load of a DST byte answers the final byte: at once on a coherent
platform, and after the host has invalidated its copy on one that is not, whatever the host had stored there and left
uncleaned before. A host that skips it is refused (R85). The record of the cache is the model's own, log entry 7. -/
def Obligations.CompletedBytesAreRead : Prop :=
  ∀ (s : State) (c : Snapshot) (a : Nat), s.engine = .busy c → c.Valid s.platform → s.taint = false →
    c.accessible s.platform = true → c.dstRange.holds a = true →
    ∃ t : State, engineStep s = .next t ∧ t.busy = false ∧ t.status.done = true ∧
      (s.platform.hostCoherent = true →
        hostAccess (.load a) t = .next { t with responses := .data [c.resultAt a] :: t.responses }) ∧
      (s.platform.hostCoherent = false →
        hostAccess (.load a) t = .refused .staleRead ∧
        ∀ base len, base ≤ a → a < base + len → ∃ u : State,
          hostAccess (.invalidate base len) t = .next u ∧ u.engine = t.engine ∧ u.status = t.status ∧
          hostAccess (.load a) u = .next { u with responses := .data [c.resultAt a] :: u.responses })
end

