-- ==== Sys2Proof/Laws/Decode.lean ====
section
/-! SUPPORT. The laws of byte lanes and of a command word's fields. -/

namespace Sys2Proof

@[simp] theorem wordOfLanes_lanesOfWord (w : Word) : wordOfLanes (lanesOfWord w) = some w := by
  simp only [lanesOfWord, wordOfLanes, Option.some.injEq]
  apply BitVec.eq_of_getLsbD_eq
  intro i hi
  simp only [BitVec.getLsbD_append, BitVec.getLsbD_extractLsb']
  interval_cases i <;> simp

/-- Four lanes are the lanes of the word they carry. -/
theorem lanesOfWord_of_wordOfLanes (lanes : List Byte) (w : Word) (h : wordOfLanes lanes = some w) :
    lanes = lanesOfWord w := by
  match lanes, h with
  | [b0, b1, b2, b3], h =>
    simp only [wordOfLanes, Option.some.injEq] at h
    subst h
    simp only [lanesOfWord, List.cons.injEq, and_true]
    refine ⟨?_, ?_, ?_, ?_⟩ <;>
      (apply BitVec.eq_of_getLsbD_eq
       intro i hi
       simp only [BitVec.getLsbD_append, BitVec.getLsbD_extractLsb']
       interval_cases i <;> simp)

/-- The lanes that carry a word are exactly four. -/
theorem wordOfLanes_eq_none (lanes : List Byte) : wordOfLanes lanes = none ↔ lanes.length ≠ 4 := by
  match lanes with
  | [] => simp [wordOfLanes]
  | [_] => simp [wordOfLanes]
  | [_, _] => simp [wordOfLanes]
  | [_, _, _] => simp [wordOfLanes]
  | [_, _, _, _] => simp [wordOfLanes]
  | _ :: _ :: _ :: _ :: _ :: _ => simp [wordOfLanes]

@[simp] theorem unpack_pack (f : CommandFields) : unpackFields (packFields f) = f := by
  obtain ⟨op, mode, rsvd⟩ := f
  simp only [unpackFields, packFields, CommandFields.mk.injEq]
  refine ⟨?_, ?_, ?_⟩ <;>
    (apply BitVec.eq_of_getLsbD_eq
     intro i hi
     simp only [BitVec.getLsbD_append, BitVec.getLsbD_extractLsb']
     interval_cases i <;> simp)

@[simp] theorem pack_unpack (w : Word) : packFields (unpackFields w) = w := by
  simp only [unpackFields, packFields]
  apply BitVec.eq_of_getLsbD_eq
  intro i hi
  simp only [BitVec.getLsbD_append, BitVec.getLsbD_extractLsb']
  interval_cases i <;> simp

@[simp] theorem decode_lanesOfWord (w : Word) : decode (lanesOfWord w) = decodeWord w := by
  simp [decode]

/-- Whatever fields decode to a command are that command's fields. -/
theorem fields_of_decodeFields (f : CommandFields) (i : Instr) (h : decodeFields f = .ok i) : f = i.fields := by
  obtain ⟨op, mode, rsvd⟩ := f
  simp only [decodeFields] at h
  split at h
  · cases h
  · rename_i hr
    simp only [ne_eq, not_not] at hr
    subst hr
    split at h
    · split at h
      · cases h; simp_all [Instr.fields]
      · cases h
    · split at h
      · split at h
        · cases h; simp_all [Instr.fields]
        · cases h
      · split at h
        · split at h
          · cases h; simp_all [Instr.fields]
          · split at h
            · cases h; simp_all [Instr.fields]
            · split at h
              · cases h; simp_all [Instr.fields]
              · cases h
                rename_i h0 h1 h2
                have h3 : mode = 3#2 := by
                  revert h0 h1 h2
                  revert mode
                  decide
                simp_all [Instr.fields]
        · cases h

end Sys2Proof
end

