-- ==== Sys2Proof/Laws/Memory.lean ====
section
/-! SUPPORT. The laws of the data memory: read after write, read after fill, and the canonical form. -/

namespace Sys2Proof.Machine

theorem lookup_write_same (m : Memory) (a : Nat) (v : Byte) : Memory.lookup (Memory.write m a v) a = some v := by
  induction m with
  | nil => simp [Memory.write, Memory.lookup]
  | cons c m ih =>
    obtain ⟨b, u⟩ := c
    simp only [Memory.write]
    split
    · simp [Memory.lookup]
    · split
      · simp [Memory.lookup]
      · rename_i h
        simp [Memory.lookup, Ne.symm h, ih]

theorem lookup_write_other (m : Memory) (a x : Nat) (v : Byte) (h : x ≠ a) :
    Memory.lookup (Memory.write m a v) x = Memory.lookup m x := by
  induction m with
  | nil => simp [Memory.write, Memory.lookup, Ne.symm h]
  | cons c m ih =>
    obtain ⟨b, u⟩ := c
    simp only [Memory.write]
    split
    · simp [Memory.lookup, Ne.symm h]
    · split
      · rename_i hab
        subst hab
        simp [Memory.lookup, Ne.symm h]
      · simp [Memory.lookup, ih]

@[simp] theorem read_write_same (m : Memory) (a : Nat) (v : Byte) : Memory.read (Memory.write m a v) a = v := by
  simp [Memory.read, lookup_write_same]

theorem read_write_other (m : Memory) (a x : Nat) (v : Byte) (h : x ≠ a) :
    Memory.read (Memory.write m a v) x = Memory.read m x := by
  simp [Memory.read, lookup_write_other m a x v h]

/-- A fill leaves every address outside its list alone. -/
theorem read_fill_out (f : Nat → Byte) (as : List Nat) (m : Memory) (x : Nat) (h : x ∉ as) :
    Memory.read (Memory.fill m f as) x = Memory.read m x := by
  induction as generalizing m with
  | nil => rfl
  | cons a as ih =>
    simp only [List.mem_cons, not_or] at h
    simpa [Memory.fill, read_write_other m a x (f a) h.1] using ih (Memory.write m a (f a)) h.2

/-- A fill gives every address of its list the byte it is given for it. -/
theorem read_fill_in (f : Nat → Byte) (as : List Nat) (m : Memory) (x : Nat) (h : x ∈ as) :
    Memory.read (Memory.fill m f as) x = f x := by
  induction as generalizing m with
  | nil => simp at h
  | cons a as ih =>
    by_cases hx : x ∈ as
    · exact ih (Memory.write m a (f a)) hx
    · have hxa : x = a := by simpa [hx] using h
      subst hxa
      have := read_fill_out f as (Memory.write m x (f x)) x hx
      simpa [Memory.fill] using this

theorem rising_write (m : Memory) (lo a : Nat) (v : Byte) (ha : lo ≤ a) (h : Memory.rising lo m = true) :
    Memory.rising lo (Memory.write m a v) = true := by
  induction m generalizing lo with
  | nil => simp [Memory.write, Memory.rising, ha]
  | cons c m ih =>
    obtain ⟨b, u⟩ := c
    simp only [Memory.rising, Bool.and_eq_true, decide_eq_true_eq] at h
    simp only [Memory.write]
    split
    · rename_i hab
      simp [Memory.rising, ha, h.2]
      omega
    · split
      · rename_i _ hab
        subst hab
        simp [Memory.rising, h]
      · simp only [Memory.rising, Bool.and_eq_true, decide_eq_true_eq]
        exact ⟨h.1, ih (b + 1) (by omega) h.2⟩

theorem all_write (p : Host.Cell → Bool) (m : Memory) (a : Nat) (v : Byte) (hp : p (a, v) = true)
    (h : m.all p = true) : (Memory.write m a v).all p = true := by
  induction m with
  | nil => simp [Memory.write, hp]
  | cons c m ih =>
    obtain ⟨b, u⟩ := c
    simp only [List.all_cons, Bool.and_eq_true] at h
    simp only [Memory.write]
    split
    · simp [hp, h]
    · split
      · simp [hp, h]
      · simp [h, ih h.2]

/-- A write inside the address space keeps the canonical form. -/
theorem wf_write (m : Memory) (a : Nat) (v : Byte) (ha : a < Config.addressSpace) (h : Memory.wf m = true) :
    Memory.wf (Memory.write m a v) = true := by
  simp only [Memory.wf, Bool.and_eq_true] at h ⊢
  exact ⟨rising_write m 0 a v (Nat.zero_le a) h.1, all_write _ m a v (by simpa using ha) h.2⟩

/-- A fill inside the address space keeps the canonical form. -/
theorem wf_fill (f : Nat → Byte) (as : List Nat) (m : Memory) (ha : ∀ a ∈ as, a < Config.addressSpace)
    (h : Memory.wf m = true) : Memory.wf (Memory.fill m f as) = true := by
  induction as generalizing m with
  | nil => exact h
  | cons a as ih =>
    have hw := wf_write m a (f a) (ha a (by simp)) h
    exact ih (Memory.write m a (f a)) (fun b hb => ha b (by simp [hb])) hw

/-- The memory of the reset state is in canonical form. -/
theorem wf_reset : Memory.wf State.reset.mem = true := rfl

theorem lookup_rising (m : Memory) (lo a : Nat) (h : Memory.rising lo m = true) (ha : a < lo) :
    Memory.lookup m a = none := by
  induction m generalizing lo with
  | nil => rfl
  | cons c m ih =>
    obtain ⟨b, u⟩ := c
    simp only [Memory.rising, Bool.and_eq_true, decide_eq_true_eq] at h
    simp [Memory.lookup, show b ≠ a by omega, ih (b + 1) h.2 (by omega)]

/-- Two memories in canonical form that list the same bytes are the same list. -/
theorem memory_ext_rising (m n : Memory) (lo : Nat) (hm : Memory.rising lo m = true)
    (hn : Memory.rising lo n = true) (h : ∀ a, Memory.lookup m a = Memory.lookup n a) : m = n := by
  induction m generalizing n lo with
  | nil =>
    cases n with
    | nil => rfl
    | cons d n => have := h d.1; simp [Memory.lookup] at this
  | cons c m ih =>
    obtain ⟨a, u⟩ := c
    simp only [Memory.rising, Bool.and_eq_true, decide_eq_true_eq] at hm
    cases n with
    | nil => have := h a; simp [Memory.lookup] at this
    | cons d n =>
      obtain ⟨b, v⟩ := d
      simp only [Memory.rising, Bool.and_eq_true, decide_eq_true_eq] at hn
      have hab : a = b := by
        rcases Nat.lt_trichotomy a b with hlt | heq | hgt
        · have := h a
          simp [Memory.lookup, show b ≠ a by omega, lookup_rising n (b + 1) a hn.2 (by omega)] at this
        · exact heq
        · have := h b
          simp [Memory.lookup, show a ≠ b by omega, lookup_rising m (a + 1) b hm.2 (by omega)] at this
      subst hab
      have huv : u = v := by have := h a; simpa [Memory.lookup] using this
      subst huv
      have htail : ∀ x, Memory.lookup m x = Memory.lookup n x := by
        intro x
        by_cases hx : x < a + 1
        · rw [lookup_rising m (a + 1) x hm.2 hx, lookup_rising n (a + 1) x hn.2 hx]
        · have := h x
          simpa [Memory.lookup, show a ≠ x by omega] using this
      rw [ih n (a + 1) hm.2 hn.2 htail]

/-- Equal memories are equal data. -/
theorem memory_ext (m n : Memory) (hm : Memory.wf m = true) (hn : Memory.wf n = true)
    (h : ∀ a, Memory.lookup m a = Memory.lookup n a) : m = n := by
  simp only [Memory.wf, Bool.and_eq_true] at hm hn
  exact memory_ext_rising m n 0 hm.1 hn.1 h

theorem holds_iff (r : Range) (a : Nat) : r.holds a = true ↔ r.base ≤ a ∧ a < r.base + r.size := by
  simp [Range.holds]

theorem holds_eq_false_iff (r : Range) (a : Nat) : r.holds a = false ↔ a < r.base ∨ r.base + r.size ≤ a := by
  rw [← Bool.not_eq_true, holds_iff]
  omega

theorem mem_addressesOf (r : Range) (a : Nat) : a ∈ addressesOf r ↔ r.holds a = true := by
  simp only [addressesOf, List.mem_map, List.mem_range, Range.holds, Bool.and_eq_true, decide_eq_true_eq]
  constructor
  · rintro ⟨k, hk, rfl⟩
    omega
  · rintro ⟨h1, h2⟩
    exact ⟨a - r.base, by omega, by omega⟩

@[simp] theorem length_readRange (m : Memory) (r : Range) : (Memory.readRange m r).length = r.size := by
  simp [Memory.readRange, addressesOf]

theorem getD_readRange (m : Memory) (r : Range) (k : Nat) (hk : k < r.size) :
    (Memory.readRange m r).getD k 0#8 = Memory.read m (r.base + k) := by
  simp [Memory.readRange, addressesOf, List.getD_eq_getElem?_getD, hk]

/-- Memories that agree on a range read the same there. -/
theorem readRange_congr (m n : Memory) (r : Range)
    (h : ∀ a, r.holds a = true → Memory.read m a = Memory.read n a) : Memory.readRange m r = Memory.readRange n r := by
  simp only [Memory.readRange, List.map_inj_left]
  exact fun a ha => h a ((mem_addressesOf r a).1 ha)

end Sys2Proof.Machine
end

