-- ==== Sys2Proof/Laws/State.lean ====
section
/-! SUPPORT. What each named update of State leaves in each field: one lemma a field, true by rfl. -/

namespace Sys2Proof.Machine

variable (s : State)

section respond
variable (r : Response)

@[simp] theorem respond_platform : (s.respond r).platform = s.platform := rfl
@[simp] theorem respond_irqEn : (s.respond r).irqEn = s.irqEn := rfl
@[simp] theorem respond_status : (s.respond r).status = s.status := rfl
@[simp] theorem respond_srcAddr : (s.respond r).srcAddr = s.srcAddr := rfl
@[simp] theorem respond_dstAddr : (s.respond r).dstAddr = s.dstAddr := rfl
@[simp] theorem respond_width : (s.respond r).width = s.width := rfl
@[simp] theorem respond_height : (s.respond r).height = s.height := rfl
@[simp] theorem respond_cycles : (s.respond r).cycles = s.cycles := rfl
@[simp] theorem respond_engine : (s.respond r).engine = s.engine := rfl
@[simp] theorem respond_taint : (s.respond r).taint = s.taint := rfl
@[simp] theorem respond_inReset : (s.respond r).inReset = s.inReset := rfl
@[simp] theorem respond_mem : (s.respond r).mem = s.mem := rfl
@[simp] theorem respond_dirty : (s.respond r).dirty = s.dirty := rfl
@[simp] theorem respond_stale : (s.respond r).stale = s.stale := rfl
@[simp] theorem respond_drawCount : (s.respond r).drawCount = s.drawCount := rfl
@[simp] theorem respond_script : (s.respond r).script = s.script := rfl
@[simp] theorem respond_schedule : (s.respond r).schedule = s.schedule := rfl
@[simp] theorem respond_responses : (s.respond r).responses = r :: s.responses := rfl

end respond

section withStatus
variable (st : Status)

@[simp] theorem withStatus_platform : (s.withStatus st).platform = s.platform := rfl
@[simp] theorem withStatus_irqEn : (s.withStatus st).irqEn = s.irqEn := rfl
@[simp] theorem withStatus_status : (s.withStatus st).status = st := rfl
@[simp] theorem withStatus_srcAddr : (s.withStatus st).srcAddr = s.srcAddr := rfl
@[simp] theorem withStatus_dstAddr : (s.withStatus st).dstAddr = s.dstAddr := rfl
@[simp] theorem withStatus_width : (s.withStatus st).width = s.width := rfl
@[simp] theorem withStatus_height : (s.withStatus st).height = s.height := rfl
@[simp] theorem withStatus_cycles : (s.withStatus st).cycles = s.cycles := rfl
@[simp] theorem withStatus_engine : (s.withStatus st).engine = s.engine := rfl
@[simp] theorem withStatus_taint : (s.withStatus st).taint = s.taint := rfl
@[simp] theorem withStatus_inReset : (s.withStatus st).inReset = s.inReset := rfl
@[simp] theorem withStatus_mem : (s.withStatus st).mem = s.mem := rfl
@[simp] theorem withStatus_dirty : (s.withStatus st).dirty = s.dirty := rfl
@[simp] theorem withStatus_stale : (s.withStatus st).stale = s.stale := rfl
@[simp] theorem withStatus_drawCount : (s.withStatus st).drawCount = s.drawCount := rfl
@[simp] theorem withStatus_script : (s.withStatus st).script = s.script := rfl
@[simp] theorem withStatus_schedule : (s.withStatus st).schedule = s.schedule := rfl
@[simp] theorem withStatus_responses : (s.withStatus st).responses = s.responses := rfl

end withStatus

section raiseError
variable (c : ErrorCode)

@[simp] theorem raiseError_platform : (s.raiseError c).platform = s.platform := rfl
@[simp] theorem raiseError_irqEn : (s.raiseError c).irqEn = s.irqEn := rfl
@[simp] theorem raiseError_status : (s.raiseError c).status = s.status.fail c := rfl
@[simp] theorem raiseError_srcAddr : (s.raiseError c).srcAddr = s.srcAddr := rfl
@[simp] theorem raiseError_dstAddr : (s.raiseError c).dstAddr = s.dstAddr := rfl
@[simp] theorem raiseError_width : (s.raiseError c).width = s.width := rfl
@[simp] theorem raiseError_height : (s.raiseError c).height = s.height := rfl
@[simp] theorem raiseError_cycles : (s.raiseError c).cycles = s.cycles := rfl
@[simp] theorem raiseError_engine : (s.raiseError c).engine = s.engine := rfl
@[simp] theorem raiseError_taint : (s.raiseError c).taint = s.taint := rfl
@[simp] theorem raiseError_inReset : (s.raiseError c).inReset = s.inReset := rfl
@[simp] theorem raiseError_mem : (s.raiseError c).mem = s.mem := rfl
@[simp] theorem raiseError_dirty : (s.raiseError c).dirty = s.dirty := rfl
@[simp] theorem raiseError_stale : (s.raiseError c).stale = s.stale := rfl
@[simp] theorem raiseError_drawCount : (s.raiseError c).drawCount = s.drawCount := rfl
@[simp] theorem raiseError_script : (s.raiseError c).script = s.script := rfl
@[simp] theorem raiseError_schedule : (s.raiseError c).schedule = s.schedule := rfl
@[simp] theorem raiseError_responses : (s.raiseError c).responses = s.responses := rfl

end raiseError

section clearResult

@[simp] theorem clearResult_platform : (s.clearResult).platform = s.platform := rfl
@[simp] theorem clearResult_irqEn : (s.clearResult).irqEn = s.irqEn := rfl
@[simp] theorem clearResult_status : (s.clearResult).status = s.status.clearResult := rfl
@[simp] theorem clearResult_srcAddr : (s.clearResult).srcAddr = s.srcAddr := rfl
@[simp] theorem clearResult_dstAddr : (s.clearResult).dstAddr = s.dstAddr := rfl
@[simp] theorem clearResult_width : (s.clearResult).width = s.width := rfl
@[simp] theorem clearResult_height : (s.clearResult).height = s.height := rfl
@[simp] theorem clearResult_cycles : (s.clearResult).cycles = s.cycles := rfl
@[simp] theorem clearResult_engine : (s.clearResult).engine = s.engine := rfl
@[simp] theorem clearResult_taint : (s.clearResult).taint = s.taint := rfl
@[simp] theorem clearResult_inReset : (s.clearResult).inReset = s.inReset := rfl
@[simp] theorem clearResult_mem : (s.clearResult).mem = s.mem := rfl
@[simp] theorem clearResult_dirty : (s.clearResult).dirty = s.dirty := rfl
@[simp] theorem clearResult_stale : (s.clearResult).stale = s.stale := rfl
@[simp] theorem clearResult_drawCount : (s.clearResult).drawCount = s.drawCount := rfl
@[simp] theorem clearResult_script : (s.clearResult).script = s.script := rfl
@[simp] theorem clearResult_schedule : (s.clearResult).schedule = s.schedule := rfl
@[simp] theorem clearResult_responses : (s.clearResult).responses = s.responses := rfl

end clearResult

section rejectCommand

@[simp] theorem rejectCommand_platform : (s.rejectCommand).platform = s.platform := rfl
@[simp] theorem rejectCommand_irqEn : (s.rejectCommand).irqEn = s.irqEn := rfl
@[simp] theorem rejectCommand_status : (s.rejectCommand).status = { s.status with reject := true } := rfl
@[simp] theorem rejectCommand_srcAddr : (s.rejectCommand).srcAddr = s.srcAddr := rfl
@[simp] theorem rejectCommand_dstAddr : (s.rejectCommand).dstAddr = s.dstAddr := rfl
@[simp] theorem rejectCommand_width : (s.rejectCommand).width = s.width := rfl
@[simp] theorem rejectCommand_height : (s.rejectCommand).height = s.height := rfl
@[simp] theorem rejectCommand_cycles : (s.rejectCommand).cycles = s.cycles := rfl
@[simp] theorem rejectCommand_engine : (s.rejectCommand).engine = s.engine := rfl
@[simp] theorem rejectCommand_taint : (s.rejectCommand).taint = s.taint := rfl
@[simp] theorem rejectCommand_inReset : (s.rejectCommand).inReset = s.inReset := rfl
@[simp] theorem rejectCommand_mem : (s.rejectCommand).mem = s.mem := rfl
@[simp] theorem rejectCommand_dirty : (s.rejectCommand).dirty = s.dirty := rfl
@[simp] theorem rejectCommand_stale : (s.rejectCommand).stale = s.stale := rfl
@[simp] theorem rejectCommand_drawCount : (s.rejectCommand).drawCount = s.drawCount := rfl
@[simp] theorem rejectCommand_script : (s.rejectCommand).script = s.script := rfl
@[simp] theorem rejectCommand_schedule : (s.rejectCommand).schedule = s.schedule := rfl
@[simp] theorem rejectCommand_responses : (s.rejectCommand).responses = s.responses := rfl

end rejectCommand

section accept
variable (m : Mode)

@[simp] theorem accept_platform : (s.accept m).platform = s.platform := rfl
@[simp] theorem accept_irqEn : (s.accept m).irqEn = s.irqEn := rfl
@[simp] theorem accept_status : (s.accept m).status = s.status := rfl
@[simp] theorem accept_srcAddr : (s.accept m).srcAddr = s.srcAddr := rfl
@[simp] theorem accept_dstAddr : (s.accept m).dstAddr = s.dstAddr := rfl
@[simp] theorem accept_width : (s.accept m).width = s.width := rfl
@[simp] theorem accept_height : (s.accept m).height = s.height := rfl
@[simp] theorem accept_cycles : (s.accept m).cycles = s.cycles := rfl
@[simp] theorem accept_engine : (s.accept m).engine = .busy (s.snapshot m) := rfl
@[simp] theorem accept_taint : (s.accept m).taint = false := rfl
@[simp] theorem accept_inReset : (s.accept m).inReset = s.inReset := rfl
@[simp] theorem accept_mem : (s.accept m).mem = s.mem := rfl
@[simp] theorem accept_dirty : (s.accept m).dirty = s.dirty := rfl
@[simp] theorem accept_stale : (s.accept m).stale = s.stale := rfl
@[simp] theorem accept_drawCount : (s.accept m).drawCount = s.drawCount := rfl
@[simp] theorem accept_script : (s.accept m).script = s.script := rfl
@[simp] theorem accept_schedule : (s.accept m).schedule = s.schedule := rfl
@[simp] theorem accept_responses : (s.accept m).responses = s.responses := rfl

end accept

section complete
variable (c : Snapshot)

@[simp] theorem complete_platform : (s.complete c).platform = s.platform := rfl
@[simp] theorem complete_irqEn : (s.complete c).irqEn = s.irqEn := rfl
@[simp] theorem complete_status : (s.complete c).status = completionStatus s c := rfl
@[simp] theorem complete_srcAddr : (s.complete c).srcAddr = s.srcAddr := rfl
@[simp] theorem complete_dstAddr : (s.complete c).dstAddr = s.dstAddr := rfl
@[simp] theorem complete_width : (s.complete c).width = s.width := rfl
@[simp] theorem complete_height : (s.complete c).height = s.height := rfl
@[simp] theorem complete_cycles : (s.complete c).cycles = Config.cyclesDraw s.drawCount := rfl
@[simp] theorem complete_engine : (s.complete c).engine = .idle := rfl
@[simp] theorem complete_taint : (s.complete c).taint = false := rfl
@[simp] theorem complete_inReset : (s.complete c).inReset = s.inReset := rfl
@[simp] theorem complete_mem : (s.complete c).mem = completionMem s c := rfl
@[simp] theorem complete_dirty : (s.complete c).dirty = s.dirty := rfl
@[simp] theorem complete_stale : (s.complete c).stale = s.markStale c.dstRange := rfl
@[simp] theorem complete_drawCount : (s.complete c).drawCount = s.drawCount + 1 := rfl
@[simp] theorem complete_script : (s.complete c).script = s.script := rfl
@[simp] theorem complete_schedule : (s.complete c).schedule = s.schedule := rfl
@[simp] theorem complete_responses : (s.complete c).responses = s.responses := rfl

end complete

section clearBlock

@[simp] theorem clearBlock_platform : (s.clearBlock).platform = s.platform := rfl
@[simp] theorem clearBlock_irqEn : (s.clearBlock).irqEn = false := rfl
@[simp] theorem clearBlock_status : (s.clearBlock).status = Status.reset := rfl
@[simp] theorem clearBlock_srcAddr : (s.clearBlock).srcAddr = 0#32 := rfl
@[simp] theorem clearBlock_dstAddr : (s.clearBlock).dstAddr = 0#32 := rfl
@[simp] theorem clearBlock_width : (s.clearBlock).width = 0#16 := rfl
@[simp] theorem clearBlock_height : (s.clearBlock).height = 0#16 := rfl
@[simp] theorem clearBlock_cycles : (s.clearBlock).cycles = 0#32 := rfl
@[simp] theorem clearBlock_engine : (s.clearBlock).engine = .idle := rfl
@[simp] theorem clearBlock_taint : (s.clearBlock).taint = false := rfl
@[simp] theorem clearBlock_inReset : (s.clearBlock).inReset = s.inReset := rfl
@[simp] theorem clearBlock_mem : (s.clearBlock).mem = s.mem := rfl
@[simp] theorem clearBlock_dirty : (s.clearBlock).dirty = s.dirty := rfl
@[simp] theorem clearBlock_stale : (s.clearBlock).stale = s.stale := rfl
@[simp] theorem clearBlock_drawCount : (s.clearBlock).drawCount = s.drawCount := rfl
@[simp] theorem clearBlock_script : (s.clearBlock).script = s.script := rfl
@[simp] theorem clearBlock_schedule : (s.clearBlock).schedule = s.schedule := rfl
@[simp] theorem clearBlock_responses : (s.clearBlock).responses = s.responses := rfl

end clearBlock

section releaseReset

@[simp] theorem releaseReset_platform : (s.releaseReset).platform = s.platform := rfl
@[simp] theorem releaseReset_irqEn : (s.releaseReset).irqEn = s.irqEn := rfl
@[simp] theorem releaseReset_status : (s.releaseReset).status = s.status := rfl
@[simp] theorem releaseReset_srcAddr : (s.releaseReset).srcAddr = s.srcAddr := rfl
@[simp] theorem releaseReset_dstAddr : (s.releaseReset).dstAddr = s.dstAddr := rfl
@[simp] theorem releaseReset_width : (s.releaseReset).width = s.width := rfl
@[simp] theorem releaseReset_height : (s.releaseReset).height = s.height := rfl
@[simp] theorem releaseReset_cycles : (s.releaseReset).cycles = s.cycles := rfl
@[simp] theorem releaseReset_engine : (s.releaseReset).engine = s.engine := rfl
@[simp] theorem releaseReset_taint : (s.releaseReset).taint = s.taint := rfl
@[simp] theorem releaseReset_inReset : (s.releaseReset).inReset = false := rfl
@[simp] theorem releaseReset_mem : (s.releaseReset).mem = s.mem := rfl
@[simp] theorem releaseReset_dirty : (s.releaseReset).dirty = s.dirty := rfl
@[simp] theorem releaseReset_stale : (s.releaseReset).stale = s.stale := rfl
@[simp] theorem releaseReset_drawCount : (s.releaseReset).drawCount = s.drawCount := rfl
@[simp] theorem releaseReset_script : (s.releaseReset).script = s.script := rfl
@[simp] theorem releaseReset_schedule : (s.releaseReset).schedule = s.schedule := rfl
@[simp] theorem releaseReset_responses : (s.releaseReset).responses = s.responses := rfl

end releaseReset

section hostWrite
variable (a : Nat) (b : Byte)

@[simp] theorem hostWrite_platform : (s.hostWrite a b).platform = s.platform := rfl
@[simp] theorem hostWrite_irqEn : (s.hostWrite a b).irqEn = s.irqEn := rfl
@[simp] theorem hostWrite_status : (s.hostWrite a b).status = s.status := rfl
@[simp] theorem hostWrite_srcAddr : (s.hostWrite a b).srcAddr = s.srcAddr := rfl
@[simp] theorem hostWrite_dstAddr : (s.hostWrite a b).dstAddr = s.dstAddr := rfl
@[simp] theorem hostWrite_width : (s.hostWrite a b).width = s.width := rfl
@[simp] theorem hostWrite_height : (s.hostWrite a b).height = s.height := rfl
@[simp] theorem hostWrite_cycles : (s.hostWrite a b).cycles = s.cycles := rfl
@[simp] theorem hostWrite_engine : (s.hostWrite a b).engine = s.engine := rfl
@[simp] theorem hostWrite_taint : (s.hostWrite a b).taint = (s.taint || s.inFlight a) := rfl
@[simp] theorem hostWrite_inReset : (s.hostWrite a b).inReset = s.inReset := rfl
@[simp] theorem hostWrite_mem : (s.hostWrite a b).mem = Memory.write s.mem a b := rfl
@[simp] theorem hostWrite_dirty : (s.hostWrite a b).dirty = s.dirty := rfl
@[simp] theorem hostWrite_stale : (s.hostWrite a b).stale = s.stale.filter (fun x => x != a) := rfl
@[simp] theorem hostWrite_drawCount : (s.hostWrite a b).drawCount = s.drawCount := rfl
@[simp] theorem hostWrite_script : (s.hostWrite a b).script = s.script := rfl
@[simp] theorem hostWrite_schedule : (s.hostWrite a b).schedule = s.schedule := rfl
@[simp] theorem hostWrite_responses : (s.hostWrite a b).responses = s.responses := rfl

end hostWrite

section settleDirty
variable (as lost : List Nat)

@[simp] theorem settleDirty_platform : (s.settleDirty as lost).platform = s.platform := rfl
@[simp] theorem settleDirty_irqEn : (s.settleDirty as lost).irqEn = s.irqEn := rfl
@[simp] theorem settleDirty_status : (s.settleDirty as lost).status = s.status := rfl
@[simp] theorem settleDirty_srcAddr : (s.settleDirty as lost).srcAddr = s.srcAddr := rfl
@[simp] theorem settleDirty_dstAddr : (s.settleDirty as lost).dstAddr = s.dstAddr := rfl
@[simp] theorem settleDirty_width : (s.settleDirty as lost).width = s.width := rfl
@[simp] theorem settleDirty_height : (s.settleDirty as lost).height = s.height := rfl
@[simp] theorem settleDirty_cycles : (s.settleDirty as lost).cycles = s.cycles := rfl
@[simp] theorem settleDirty_engine : (s.settleDirty as lost).engine = s.engine := rfl
@[simp] theorem settleDirty_taint : (s.settleDirty as lost).taint = s.taint := rfl
@[simp] theorem settleDirty_inReset : (s.settleDirty as lost).inReset = s.inReset := rfl
@[simp] theorem settleDirty_mem :
    (s.settleDirty as lost).mem = Memory.fill s.mem (Config.anyByte s.drawCount) lost := rfl
@[simp] theorem settleDirty_dirty : (s.settleDirty as lost).dirty = s.dirty.filter (fun a => !as.contains a) := rfl
@[simp] theorem settleDirty_stale : (s.settleDirty as lost).stale = s.stale := rfl
@[simp] theorem settleDirty_drawCount : (s.settleDirty as lost).drawCount = s.drawCount + 1 := rfl
@[simp] theorem settleDirty_script : (s.settleDirty as lost).script = s.script := rfl
@[simp] theorem settleDirty_schedule : (s.settleDirty as lost).schedule = s.schedule := rfl
@[simp] theorem settleDirty_responses : (s.settleDirty as lost).responses = s.responses := rfl

end settleDirty

/-! BUSY and the addresses in use depend on the engine alone. -/

@[simp] theorem busy_of_idle (h : s.engine = .idle) : s.busy = false := by simp [State.busy, h]

@[simp] theorem busy_of_busy (c : Snapshot) (h : s.engine = .busy c) : s.busy = true := by simp [State.busy, h]

theorem busy_congr (s t : State) (h : t.engine = s.engine) : t.busy = s.busy := by simp [State.busy, h]

theorem busy_eq_false (h : s.busy = false) : s.engine = .idle := by
  unfold State.busy at h
  split at h
  · assumption
  · cases h

theorem busy_eq_true (h : s.busy = true) : ∃ c, s.engine = .busy c := by
  unfold State.busy at h
  split at h
  · cases h
  · exact ⟨_, by assumption⟩

@[simp] theorem busy_respond (r : Response) : (s.respond r).busy = s.busy := rfl
@[simp] theorem busy_withStatus (st : Status) : (s.withStatus st).busy = s.busy := rfl
@[simp] theorem busy_raiseError (c : ErrorCode) : (s.raiseError c).busy = s.busy := rfl
@[simp] theorem busy_clearResult : s.clearResult.busy = s.busy := rfl
@[simp] theorem busy_rejectCommand : s.rejectCommand.busy = s.busy := rfl
@[simp] theorem busy_accept (m : Mode) : (s.accept m).busy = true := rfl
@[simp] theorem busy_complete (c : Snapshot) : (s.complete c).busy = false := rfl

theorem inFlight_congr (s t : State) (h : t.engine = s.engine) : t.inFlight = s.inFlight := by
  funext a
  simp [State.inFlight, h]

/-! What the updates of STATUS leave in each of its fields. -/

section status
variable (st : Status) (c : ErrorCode)

@[simp] theorem clearResult_done : st.clearResult.done = false := rfl
@[simp] theorem clearResult_err : st.clearResult.err = false := rfl
@[simp] theorem clearResult_errCode : st.clearResult.errCode = .noError := rfl
@[simp] theorem clearResult_reject : st.clearResult.reject = st.reject := rfl
@[simp] theorem clearResult_initDone : st.clearResult.initDone = st.initDone := rfl
@[simp] theorem succeed_done : st.succeed.done = true := rfl
@[simp] theorem succeed_err : st.succeed.err = st.err := rfl
@[simp] theorem succeed_errCode : st.succeed.errCode = st.errCode := rfl
@[simp] theorem succeed_reject : st.succeed.reject = st.reject := rfl
@[simp] theorem succeed_initDone : st.succeed.initDone = st.initDone := rfl
@[simp] theorem fail_done : (st.fail c).done = st.done := rfl
@[simp] theorem fail_err : (st.fail c).err = true := rfl
@[simp] theorem fail_errCode : (st.fail c).errCode = c := rfl
@[simp] theorem fail_reject : (st.fail c).reject = st.reject := rfl
@[simp] theorem fail_initDone : (st.fail c).initDone = st.initDone := rfl

end status

end Sys2Proof.Machine
end

