-- ==== Sys2Proof/Laws/Ops.lean ====
section
/-! SUPPORT. Everything a command's evaluation can do, said once, and what acceptance and completion rest on. -/

namespace Sys2Proof.Machine

/-- What the evaluation of a non-NOP word can leave. -/
inductive CommandEffect (s : State) : Option Instr → State → Prop where
  | rejected (i : Option Instr) (hi : i ≠ some .nop) (hb : s.busy = true) : CommandEffect s i s.rejectCommand
  | nop : CommandEffect s (some .nop) s
  | init (hb : s.busy = false) :
      CommandEffect s (some .init) (s.clearResult.withStatus { s.status.clearResult.succeed with initDone := true })
  | failed (i : Option Instr) (c : ErrorCode) (hi : i ≠ some .nop ∧ i ≠ some .init) (hc : c ≠ .noError)
      (hb : s.busy = false) : CommandEffect s i (s.clearResult.raiseError c)
  | accepted (m : Mode) (hb : s.busy = false) (hi : s.status.initDone = true) (hp : s.parameterError = none)
      (hd : s.launchOverDevice = false) (hu : s.launchUncleaned = false) :
      CommandEffect s (some m.instr) (s.clearResult.accept m)

theorem evaluate_busy (body : State → Host.Outcome State Fault Refusal) (s : State) (h : s.busy = true) :
    evaluate body s = .next s.rejectCommand := by simp [evaluate, h]

theorem evaluate_idle (body : State → Host.Outcome State Fault Refusal) (s : State) (h : s.busy = false) :
    evaluate body s = body s.clearResult := by simp [evaluate, h]

/-- The checks on the parameter registers do not look at STATUS. -/
@[simp] theorem parameterError_clearResult (s : State) : s.clearResult.parameterError = s.parameterError := rfl

@[simp] theorem launchOverDevice_clearResult (s : State) : s.clearResult.launchOverDevice = s.launchOverDevice := rfl

@[simp] theorem launchUncleaned_clearResult (s : State) : s.clearResult.launchUncleaned = s.launchUncleaned := rfl

@[simp] theorem snapshot_clearResult (s : State) (m : Mode) : s.clearResult.snapshot m = s.snapshot m := rfl

theorem parameterError_ne_noError (s : State) (c : ErrorCode) (h : s.parameterError = some c) : c ≠ .noError := by
  unfold State.parameterError at h
  split at h
  · cases h; simp
  · split at h
    · cases h; simp
    · split at h
      · cases h; simp
      · split at h
        · cases h; simp
        · cases h

/-- `exec` of a command that starts a frame, in each case. -/
theorem exec_instr (m : Mode) (s : State) : exec m.instr s = evaluate (doProcess (some m)) s := by
  cases m <;> rfl

theorem process_effect (m : Mode) (s t : State) (h : exec m.instr s = .next t) :
    CommandEffect s (some m.instr) t := by
  have hnop : (some m.instr : Option Instr) ≠ some .nop := by cases m <;> simp [Mode.instr]
  have hinit : (some m.instr : Option Instr) ≠ some .init := by cases m <;> simp [Mode.instr]
  rw [exec_instr] at h
  cases hb : s.busy with
  | true =>
    rw [evaluate_busy _ _ hb] at h
    cases h
    exact .rejected _ hnop hb
  | false =>
    rw [evaluate_idle _ _ hb] at h
    simp only [doProcess] at h
    split at h
    · rename_i hi
      split at h
      · cases h
        rename_i c hc
        exact .failed _ _ ⟨hnop, hinit⟩ (parameterError_ne_noError s c hc) hb
      · rename_i hp
        simp only [launch] at h
        split at h
        · cases h
        · rename_i hd
          split at h
          · cases h
          · rename_i hu
            cases h
            simp only [clearResult_status, clearResult_initDone, parameterError_clearResult,
              launchOverDevice_clearResult, launchUncleaned_clearResult, Bool.not_eq_true] at hi hp hd hu
            exact .accepted m hb hi hp hd hu
    · cases h
      exact .failed _ _ ⟨hnop, hinit⟩ (by simp) hb

/-- Everything `exec` can do when it answers a state. -/
theorem exec_effect (i : Instr) (s t : State) (h : exec i s = .next t) : CommandEffect s (some i) t := by
  cases i with
  | nop => cases h; exact .nop
  | init =>
    simp only [exec, execInit] at h
    cases hb : s.busy with
    | true => rw [evaluate_busy _ _ hb] at h; cases h; exact .rejected _ (by simp) hb
    | false => rw [evaluate_idle _ _ hb] at h; cases h; exact .init hb
  | processRaw => exact process_effect .raw s t h
  | processGray => exact process_effect .gray s t h
  | processEdge => exact process_effect .edge s t h
  | processRsvd =>
    simp only [exec, execProcessRsvd] at h
    cases hb : s.busy with
    | true => rw [evaluate_busy _ _ hb] at h; cases h; exact .rejected _ (by simp) hb
    | false =>
      rw [evaluate_idle _ _ hb] at h
      simp only [doProcess] at h
      split at h <;> cases h <;> exact .failed _ _ (by simp) (by simp) hb

/-- Everything a CMD write can do when it answers a state; `none` stands for an illegal word. -/
theorem commandWrite_effect (lanes : List Byte) (s t : State) (h : commandWrite lanes s = .next t) :
    CommandEffect s (decode lanes).toOption t := by
  simp only [commandWrite] at h
  split at h
  · rename_i i hi
    rw [hi]
    exact exec_effect i s t h
  · rename_i r hr
    rw [hr]
    simp only [evaluateIllegal] at h
    cases hb : s.busy with
    | true => rw [evaluate_busy _ _ hb] at h; cases h; exact .rejected _ (by simp [Except.toOption]) hb
    | false =>
      rw [evaluate_idle _ _ hb] at h
      cases h
      exact .failed _ _ (by simp [Except.toOption]) (by simp) hb

/-- Evaluating a command changes STATUS, the engine and TAINT, and nothing else. -/
theorem commandEffect_frame (s t : State) (i : Option Instr) (h : CommandEffect s i t) :
    t = { s with status := t.status, engine := t.engine, taint := t.taint } := by
  cases h <;> rfl

/-- The lengths of an even frame, in the spec's own arithmetic (R63). -/
theorem srcLength_eq (w h : Nat) (hw : w % 2 = 0) : srcLength w h = 3 * w * h / 2 := by
  obtain ⟨k, rfl⟩ : ∃ k, w = 2 * k := ⟨w / 2, by omega⟩
  have e1 : 2 * k * h / 2 = k * h := by rw [Nat.mul_assoc]; exact Nat.mul_div_cancel_left _ (by omega)
  have e2 : 3 * (2 * k) * h / 2 = 3 * (k * h) := by
    rw [show 3 * (2 * k) * h = 2 * (3 * (k * h)) by ring]; exact Nat.mul_div_cancel_left _ (by omega)
  simp only [srcLength, e1, e2]
  rw [show 2 * k * h = 2 * (k * h) by ring]
  omega

theorem dstLength_eq (w h : Nat) : dstLength w h = 3 * w * h := by simp only [dstLength]; ring

/-- What the checks leave of the parameter registers (R215 to R218). -/
theorem parameterError_none (s : State) : s.parameterError = none ↔
    s.inputAbsent = false ∧ s.badGeometry = false ∧ s.pastTheEnd = false ∧ s.buffersOverlap = false := by
  unfold State.parameterError
  cases s.inputAbsent <;> cases s.badGeometry <;> cases s.pastTheEnd <;> cases s.buffersOverlap <;> simp

/-- The four checks on the parameter registers, in plain numbers (R215 to R218). -/
theorem inputAbsent_iff (s : State) : s.inputAbsent = true ↔
    s.srcAddr.toNat = 0 ∨ s.dstAddr.toNat = 0 ∨ s.width.toNat = 0 ∨ s.height.toNat = 0 := by
  simp only [State.inputAbsent, Bool.or_eq_true, beq_iff_eq]
  simp only [← BitVec.toNat_inj, or_assoc]
  rfl

theorem badGeometry_iff (s : State) : s.badGeometry = true ↔
    s.width.toNat % 2 = 1 ∨ s.height.toNat % 2 = 1 ∨ s.platform.maxWidth < s.width.toNat ∨
      s.platform.maxHeight < s.height.toNat := by
  simp only [State.badGeometry, Bool.or_eq_true, decide_eq_true_eq, or_assoc]

theorem pastTheEnd_iff (s : State) (h : s.width.toNat % 2 = 0) : s.pastTheEnd = true ↔
    2 ^ 32 < s.srcAddr.toNat + 3 * s.width.toNat * s.height.toNat / 2 ∨
      2 ^ 32 < s.dstAddr.toNat + 3 * s.width.toNat * s.height.toNat := by
  simp only [State.pastTheEnd, Bool.or_eq_true, decide_eq_true_eq]
  simp only [State.srcRange, State.dstRange, Config.addressSpace, srcLength_eq _ _ h, dstLength_eq]
  norm_num

theorem buffersOverlap_iff (s : State) (h : s.width.toNat % 2 = 0) : s.buffersOverlap = true ↔
    s.srcAddr.toNat < s.dstAddr.toNat + 3 * s.width.toNat * s.height.toNat ∧
      s.dstAddr.toNat < s.srcAddr.toNat + 3 * s.width.toNat * s.height.toNat / 2 := by
  simp only [State.buffersOverlap, Bool.and_eq_true, decide_eq_true_eq]
  simp only [State.srcRange, State.dstRange, srcLength_eq _ _ h, dstLength_eq]

/-- A launchable state passes every check of R215 to R218. -/
theorem launchable_parameterError (s : State) (h : s.Launchable) : s.parameterError = none := by
  rw [parameterError_none]
  simp only [← Bool.not_eq_true]
  have hw := h.widthOk
  have hh := h.heightOk
  have hs := h.srcFits
  have hd := h.dstFits
  have ha := h.apart
  have h0 := h.present
  have a1 : s.srcAddr.toNat ≠ 0 := fun e => h0.1 (BitVec.eq_of_toNat_eq (by simpa using e))
  have a2 : s.dstAddr.toNat ≠ 0 := fun e => h0.2 (BitVec.eq_of_toNat_eq (by simpa using e))
  rw [inputAbsent_iff, badGeometry_iff, pastTheEnd_iff _ hw.2.2, buffersOverlap_iff _ hw.2.2]
  refine ⟨?_, ?_, ?_, ?_⟩ <;> omega

/-- A launchable state is one no launch duty of R73 or R85 stops. -/
theorem launchable_duties (s : State) (h : s.Launchable) : s.launchOverDevice = false ∧ s.launchUncleaned = false := by
  refine ⟨by simp [State.launchOverDevice, h.ordinary], ?_⟩
  rcases h.cleaned with e | e <;> simp only [State.launchUncleaned, e] <;> simp

/-- The snapshot of registers that pass every check, launched over ordinary memory, is valid. -/
theorem snapshot_valid (s : State) (m : Mode) (hp : s.parameterError = none) (hd : s.launchOverDevice = false) :
    (s.snapshot m).Valid s.platform := by
  obtain ⟨ha, hg, he, ho⟩ := (parameterError_none s).1 hp
  simp only [State.inputAbsent, Bool.or_eq_false_iff, beq_eq_false_iff_ne, ne_eq] at ha
  simp only [State.badGeometry, Bool.or_eq_false_iff, decide_eq_false_iff_not, Nat.not_lt] at hg
  simp only [State.pastTheEnd, Bool.or_eq_false_iff, decide_eq_false_iff_not, Nat.not_lt] at he
  simp only [State.buffersOverlap, Bool.and_eq_false_iff, decide_eq_false_iff_not, Nat.not_lt] at ho
  simp only [State.launchOverDevice, Bool.or_eq_false_iff] at hd
  have hw : s.width.toNat ≠ 0 := fun h => ha.1.2 (BitVec.eq_of_toNat_eq (by simpa using h))
  have hh : s.height.toNat ≠ 0 := fun h => ha.2 (BitVec.eq_of_toNat_eq (by simpa using h))
  refine ⟨ha.1.1.1, ha.1.1.2, ⟨?_, hg.1.2, ?_⟩, ⟨?_, hg.2, ?_⟩, he.1, he.2, ho.symm, hd.1, hd.2, ?_⟩
  · show 2 ≤ s.width.toNat; omega
  · show s.width.toNat % 2 = 0; omega
  · show 2 ≤ s.height.toNat; omega
  · show s.height.toNat % 2 = 0; omega
  · simp only [State.snapshot, length_readRange]; rfl

/-- Every DST address of a valid snapshot is in the address space. -/
theorem dst_in_space (c : Snapshot) (p : Platform) (h : c.Valid p) :
    ∀ a ∈ addressesOf c.dstRange, a < Config.addressSpace := by
  intro a ha
  have hin := (holds_iff _ _).1 ((mem_addressesOf _ _).1 ha)
  have hfit := h.2.2.2.2.2.1
  simp only [Snapshot.dstRange] at hin
  simp only [Config.addressSpace]
  omega

/-- The SRC and DST ranges of a valid snapshot share no address. -/
theorem ranges_apart (c : Snapshot) (p : Platform) (h : c.Valid p) (a : Nat) (hs : c.srcRange.holds a = true) :
    c.dstRange.holds a = false := by
  have := h.2.2.2.2.2.2.1
  rw [holds_iff] at hs
  rw [holds_eq_false_iff]
  simp only [Snapshot.srcRange] at hs
  simp only [Snapshot.dstRange]
  omega

/-- Completion writes no byte outside the DST range. -/
theorem completionMem_out (s : State) (c : Snapshot) (a : Nat) (h : c.dstRange.holds a = false) :
    Memory.read (completionMem s c) a = Memory.read s.mem a := by
  have hn : a ∉ addressesOf c.dstRange := by simp [mem_addressesOf, h]
  unfold completionMem
  split
  · exact read_fill_out _ _ _ _ hn
  · exact read_fill_out _ _ _ _ (fun hm => hn (List.mem_filter.1 hm).1)

/-- An untainted completion whose accesses all succeed leaves the result in the DST range. -/
theorem completionMem_result (s : State) (c : Snapshot) (a : Nat) (ht : s.taint = false)
    (hok : c.accessible s.platform = true) (ha : c.dstRange.holds a = true) :
    Memory.read (completionMem s c) a = c.resultAt a := by
  simp only [completionMem, hok, ht, if_true, Bool.false_eq_true, if_false]
  exact read_fill_in _ _ _ _ ((mem_addressesOf _ _).2 ha)

/-- Completion keeps memory in canonical form. -/
theorem completionMem_wf (s : State) (c : Snapshot) (h : c.Valid s.platform) (hm : Memory.wf s.mem = true) :
    Memory.wf (completionMem s c) = true := by
  unfold completionMem
  split
  · exact wf_fill _ _ _ (dst_in_space c _ h) hm
  · exact wf_fill _ _ _ (fun a ha => dst_in_space c _ h a (List.mem_filter.1 ha).1) hm

/-- What a completion or an abandonment leaves stale: the command's DST range besides what was, and on a coherent
platform nothing new. -/
theorem mem_markStale (s : State) (r : Range) (a : Nat) : a ∈ s.markStale r ↔
    a ∈ s.stale ∨ (s.platform.hostCoherent = false ∧ r.holds a = true) := by
  unfold State.markStale
  cases hc : s.platform.hostCoherent <;> cases hr : r.holds a <;> simp [mem_addressesOf, hr]

/-- Every address is accessible exactly when the two ranges lie in MEM_OK (R72). -/
theorem accessible_iff (c : Snapshot) (p : Platform) : c.accessible p = true ↔
    ∀ a, c.srcRange.holds a = true ∨ c.dstRange.holds a = true → p.memOkAt a = true := by
  simp only [Snapshot.accessible, Bool.and_eq_true, List.all_eq_true, mem_addressesOf]
  exact ⟨fun h a ha => ha.elim (h.1 a) (h.2 a), fun h => ⟨fun a ha => h a (.inl ha), fun a ha => h a (.inr ha)⟩⟩

end Sys2Proof.Machine
end

