-- ==== Sys2Proof/Laws/Datapath.lean ====
section
/-! SUPPORT. The small laws of the datapath: what a clamp gives, that every channel fits a byte, and which pixel and
channel a byte of the output is. -/

namespace Sys2Proof.Machine

theorem clamp8_le (v : Int) : clamp8 v ≤ 255 := by
  unfold clamp8
  split
  · omega
  · split <;> omega

theorem clamp8_neg (v : Int) (h : v < 0) : clamp8 v = 0 := by simp [clamp8, h]

theorem clamp8_top (v : Int) (h : 255 ≤ v) : clamp8 v = 255 := by
  unfold clamp8
  split
  · omega
  · split <;> omega

theorem clamp8_mid (v : Int) (h0 : 0 ≤ v) (h1 : v ≤ 255) : clamp8 v = v.toNat := by
  unfold clamp8
  rw [if_neg (by omega), if_neg (by omega)]

/-- Every channel of a converted pixel fits a byte (R163 to R165). -/
theorem convertPixel_channel_le (y u v c : Nat) : (convertPixel y u v).channel c ≤ 255 := by
  unfold Rgb.channel convertPixel
  split <;> exact clamp8_le _

/-- Every value of a frame of converted pixels fits a byte. -/
theorem rgbFrame_channel_le (sm : List Byte) (w h i j c : Nat) : (rgbFrame sm w h i j).channel c ≤ 255 :=
  convertPixel_channel_le _ _ _ c

/-- The weights of the luma sum to 1000, so it is at most the largest channel (R180, R181). -/
theorem luma_le (p : Rgb) (m : Nat) (hr : p.r ≤ m) (hg : p.g ≤ m) (hb : p.b ≤ m) : luma p ≤ m := by
  simp only [luma]
  omega

theorem grayFrame_le (sm : List Byte) (w h i j : Nat) : grayFrame sm w h i j ≤ 255 :=
  luma_le _ _ (rgbFrame_channel_le sm w h i j 0) (rgbFrame_channel_le sm w h i j 1)
    (rgbFrame_channel_le sm w h i j 2)

theorem edgeAt_le (I : Nat → Nat → Nat) (w h x y : Nat) : edgeAt I w h x y ≤ 255 := by
  unfold edgeAt
  split <;> omega

/-- Byte `3 · (j · w + i) + c` of the output belongs to pixel (i, j), channel c (R62, R221). -/
theorem pixel_of_index (w i j c : Nat) (hi : i < w) (hc : c < 3) :
    (3 * (j * w + i) + c) / 3 % w = i ∧ (3 * (j * w + i) + c) / 3 / w = j ∧ (3 * (j * w + i) + c) % 3 = c := by
  have h : (3 * (j * w + i) + c) / 3 = i + w * j := by rw [Nat.mul_comm w j]; omega
  refine ⟨?_, ?_, by omega⟩
  · rw [h, Nat.add_mul_mod_self_left, Nat.mod_eq_of_lt hi]
  · rw [h, Nat.add_mul_div_left _ _ (by omega), Nat.div_eq_of_lt hi, Nat.zero_add]

/-- A pixel inside the frame has its bytes inside the output. -/
theorem index_lt (w h i j c : Nat) (hi : i < w) (hj : j < h) (hc : c < 3) : 3 * (j * w + i) + c < 3 * w * h := by
  have : (j + 1) * w ≤ h * w := Nat.mul_le_mul_right _ hj
  rw [Nat.add_mul, Nat.one_mul, Nat.mul_comm h w] at this
  rw [Nat.mul_assoc]
  omega

/-- A byte that a number at most 255 is stored as reads as that number. -/
theorem byte_toNat (n : Nat) (h : n ≤ 255) : (BitVec.ofNat 8 n).toNat = n := by
  simp only [BitVec.toNat_ofNat]
  omega

/-- The output byte of a pixel and channel, in each mode (R221). -/
theorem outByte_raw (sm : List Byte) (w h i j c : Nat) (hi : i < w) (hc : c < 3) :
    (outByte .raw sm w h (3 * (j * w + i) + c)).toNat = (rgbFrame sm w h i j).channel c := by
  obtain ⟨h1, h2, h3⟩ := pixel_of_index w i j c hi hc
  simp only [outByte, h1, h2, h3]
  exact byte_toNat _ (rgbFrame_channel_le sm w h i j c)

theorem outByte_gray (sm : List Byte) (w h i j c : Nat) (hi : i < w) (hc : c < 3) :
    (outByte .gray sm w h (3 * (j * w + i) + c)).toNat = grayFrame sm w h i j := by
  obtain ⟨h1, h2, -⟩ := pixel_of_index w i j c hi hc
  simp only [outByte, h1, h2]
  exact byte_toNat _ (grayFrame_le sm w h i j)

theorem outByte_edge (sm : List Byte) (w h i j c : Nat) (hi : i < w) (hc : c < 3) :
    (outByte .edge sm w h (3 * (j * w + i) + c)).toNat = edgeFrame sm w h i j := by
  obtain ⟨h1, h2, -⟩ := pixel_of_index w i j c hi hc
  simp only [outByte, h1, h2]
  exact byte_toNat _ (edgeAt_le _ w h i j)

/-- The Y sample, as the byte memory holds (R161). -/
theorem sample_readRange (m : Memory) (r : Range) (k : Nat) (hk : k < r.size) :
    sample (Memory.readRange m r) k = (Memory.read m (r.base + k)).toNat := by
  rw [sample, getD_readRange m r k hk]

end Sys2Proof.Machine
end

