-- ==== Sys2Proof/Laws/PerInstr.lean ====
section
/-! SUPPORT. Statements for all instructions, one lemma for each constructor. -/

namespace Sys2Proof.Laws.EncodesLegalFields

/-- The fields of an instruction are well formed, packing and unpacking them loses nothing, and they decode to it. -/
def Statement (i : Instr) : Prop :=
  i.wf = true ∧ unpackFields (packFields i.fields) = i.fields ∧ decodeFields i.fields = .ok i

theorem nop : Statement .nop := by unfold Statement; decide

theorem init : Statement .init := by unfold Statement; decide

theorem processRaw : Statement .processRaw := by unfold Statement; decide

theorem processGray : Statement .processGray := by unfold Statement; decide

theorem processEdge : Statement .processEdge := by unfold Statement; decide

theorem processRsvd : Statement .processRsvd := by unfold Statement; decide

end Sys2Proof.Laws.EncodesLegalFields
end

