-- ==== Sys2Proof/Laws/Step.lean ====
section
/-! SUPPORT. Everything one step can do, said once: the host's accesses, the engine, and reset. -/

namespace Sys2Proof.Machine

/-- What a host's access `op` can leave of the state `s` from whose script it was taken. -/
inductive HostEffect (s : State) : HostOp → State → Prop where
  | answered (op : HostOp) (r : Response) : HostEffect s op (s.respond r)
  | polled (r : Reg) (mask value : Word) (a : Response) :
      HostEffect s (.poll r mask value)
        { s.respond a with script := .poll r mask value :: (s.respond a).script }
  | register (offset : BitVec 6) (d : Word) (r : Reg) (hs : s.inReset = false) (hr : regAt offset = some r)
      (hc : r ≠ .cmd) : HostEffect s (.write offset (lanesOfWord d)) (writeReg (s.respond .okay) d r)
  | command (offset : BitVec 6) (w : Word) (t : State) (hs : s.inReset = false) (hr : regAt offset = some .cmd)
      (ht : CommandEffect (s.respond .okay) (decode (lanesOfWord w)).toOption t) :
      HostEffect s (.write offset (lanesOfWord w)) t
  | nothing (op : HostOp) : HostEffect s op s
  | stored (a : Nat) (b : Byte) (bs : List Byte) (ha : a < Config.addressSpace) :
      HostEffect s (.mem a (b :: bs))
        (({ s with
            script := .mem (a + 1) bs :: s.script
            dirty := s.dirtyAfterStore a true }.hostWrite a b).respond .okay)
  | storedOnly (a : Nat) (b : Byte) (ha : a < Config.addressSpace) :
      HostEffect s (.store a b)
        (({ s with dirty := s.dirtyAfterStore a false }.hostWrite a b).respond .okay)
  | skipped (a : Nat) (b : Byte) (bs : List Byte) (r : Response) :
      HostEffect s (.mem a (b :: bs)) ({ s with script := .mem (a + 1) bs :: s.script }.respond r)
  | drawn (a : Nat) (r : Response) :
      HostEffect s (.load a) ({ s with drawCount := s.drawCount + 1 }.respond r)
  | cleaned (a len : Nat) (lost : List Nat) (hc : s.platform.hostCoherent = false)
      (hl : ∀ x ∈ lost, x ∈ s.dirty.filter (Range.holds { base := a, size := len })) :
      HostEffect s (.clean a len)
        { s.settleDirty (s.dirty.filter (Range.holds { base := a, size := len })) lost with
          taint := s.taint || (s.dirty.filter (Range.holds { base := a, size := len })).any s.inFlight }
  | invalidated (a len : Nat) (lost : List Nat) (hc : s.platform.hostCoherent = false)
      (hl : ∀ x ∈ lost, x ∈ s.dirty.filter (Range.holds { base := a, size := len }) ∧ s.blockWroteLast x = false) :
      HostEffect s (.invalidate a len)
        { s.settleDirty (s.dirty.filter (Range.holds { base := a, size := len })) lost with
          stale := s.stale.filter (fun x => !Range.holds { base := a, size := len } x) }

theorem registerWrite_effect (offset : BitVec 6) (lanes : List Byte) (s t : State)
    (h : registerWrite offset lanes s = .next t) : HostEffect s (.write offset lanes) t := by
  simp only [registerWrite] at h
  split at h
  · cases h
  · rename_i hs
    simp only [Bool.not_eq_true] at hs
    split at h
    · rename_i d ha hl
      have hlanes := lanesOfWord_of_wordOfLanes lanes d hl
      subst hlanes
      simp only [commitWrite] at h
      split at h
      · rename_i hr
        exact .command offset d t hs hr (commandWrite_effect _ _ _ h)
      · rename_i r hne hr
        cases h
        exact .register offset d r hs hr (by rintro rfl; exact hne rfl)
      · cases h
        exact .answered _ _
    · cases h
      exact .answered _ _

theorem dataAccess_next (a : Nat) (body : State → Host.Outcome State Fault Refusal) (s t : State)
    (h : dataAccess a body s = .next t) : a < Config.addressSpace ∧ ((t = s.respond .busError) ∨ body s = .next t) := by
  simp only [dataAccess] at h
  split at h
  · cases h
  · rename_i ha
    refine ⟨by omega, ?_⟩
    split at h
    · cases h
    · split at h
      · split at h
        · cases h
        · cases h; exact .inl rfl
      · exact .inr h

/-- A host's access to ordinary memory is the access itself. -/
theorem dataAccess_ordinary (a : Nat) (body : State → Host.Outcome State Fault Refusal) (s : State) (h1 : a < 2 ^ 32)
    (h2 : s.platform.devices.any (fun d => d.holds a) = false) (h3 : s.platform.window.holds a = false) :
    dataAccess a body s = body s := by
  rw [dataAccess, if_neg (by simp only [Config.addressSpace]; omega), if_neg (by simp [h2]), if_neg (by simp [h3])]

/-- A host's store to ordinary memory (R79, R80). -/
theorem storeByte_ordinary (cleaned : Bool) (a : Nat) (b : Byte) (s : State) (h1 : a < 2 ^ 32)
    (h2 : s.platform.devices.any (fun d => d.holds a) = false) (h3 : s.platform.window.holds a = false) :
    storeByte cleaned a b s =
      .next (({ s with dirty := s.dirtyAfterStore a cleaned }.hostWrite a b).respond .okay) :=
  dataAccess_ordinary a _ s h1 h2 h3

/-- A host's load of ordinary memory (R78 to R80, R85). -/
theorem loadByte_ordinary (a : Nat) (s : State) (h1 : a < 2 ^ 32)
    (h2 : s.platform.devices.any (fun d => d.holds a) = false) (h3 : s.platform.window.holds a = false) :
    loadByte a s =
      if s.inFlightDst a then
        .next ({ s with drawCount := s.drawCount + 1 }.respond (.data [Config.anyByte s.drawCount a]))
      else if !s.platform.hostCoherent && s.stale.contains a then .refused .staleRead
      else .next (s.respond (.data [Memory.read s.mem a])) :=
  dataAccess_ordinary a _ s h1 h2 h3

theorem cleanCache_notCoherent (r : Range) (s : State) (hc : s.platform.hostCoherent = false) :
    cleanCache r s =
      .next { s.settleDirty (s.dirty.filter r.holds) ((s.dirty.filter r.holds).filter s.stale.contains) with
        taint := s.taint || (s.dirty.filter r.holds).any s.inFlight } := by
  simp [cleanCache, hc]

theorem invalidateCache_notCoherent (r : Range) (s : State) (hc : s.platform.hostCoherent = false) :
    invalidateCache r s =
      .next { s.settleDirty (s.dirty.filter r.holds)
          ((s.dirty.filter r.holds).filter (fun a => !s.blockWroteLast a)) with
        stale := s.stale.filter (fun a => !r.holds a) } := by
  simp [invalidateCache, hc]

/-- What is on record as uncleaned after a store: on a coherent platform nothing new, else the address exactly when
the store is not cleaned, and every other address as before (R85). -/
theorem mem_dirtyAfterStore (s : State) (a x : Nat) (cleaned : Bool) : x ∈ s.dirtyAfterStore a cleaned ↔
    if s.platform.hostCoherent then x ∈ s.dirty else if x = a then cleaned = false else x ∈ s.dirty := by
  unfold State.dirtyAfterStore
  by_cases hx : x = a <;> cases s.platform.hostCoherent <;> cases cleaned <;> simp [hx]

/-- Everything a host's access can do when it answers a state. -/
theorem hostAccess_effect (op : HostOp) (s t : State) (h : hostAccess op s = .next t) : HostEffect s op t := by
  cases op with
  | write offset lanes => exact registerWrite_effect offset lanes s t h
  | read offset size =>
    simp only [hostAccess, registerRead] at h
    split at h
    · cases h
    · split at h <;> cases h <;> exact .answered _ _
  | poll r mask value =>
    simp only [hostAccess, pollRegister] at h
    split at h
    · cases h
    · split at h
      · cases h; exact .answered _ _
      · cases h; exact .polled r mask value _
  | mem a bytes =>
    cases bytes with
    | nil => cases h; exact .nothing _
    | cons b bs =>
      simp only [hostAccess, storeByte] at h
      obtain ⟨ha, ht | ht⟩ := dataAccess_next _ _ _ _ h
      · subst ht; exact .skipped a b bs _
      · cases ht; exact .stored a b bs ha
  | store a b =>
    simp only [hostAccess, storeByte] at h
    obtain ⟨ha, ht | ht⟩ := dataAccess_next _ _ _ _ h
    · subst ht; exact .answered _ _
    · cases ht; exact .storedOnly a b ha
  | load a =>
    simp only [hostAccess, loadByte] at h
    obtain ⟨ha, ht | ht⟩ := dataAccess_next _ _ _ _ h
    · subst ht; exact .answered _ _
    · split at ht
      · cases ht; exact .drawn a _
      · split at ht
        · cases ht
        · cases ht; exact .answered _ _
  | clean a len =>
    simp only [hostAccess, cleanCache] at h
    cases hc : s.platform.hostCoherent with
    | true => simp only [hc, if_true] at h; cases h; exact .nothing _
    | false =>
      simp only [hc, Bool.false_eq_true, if_false] at h
      cases h
      exact .cleaned a len _ hc (fun x hx => (List.mem_filter.1 hx).1)
  | invalidate a len =>
    simp only [hostAccess, invalidateCache] at h
    cases hc : s.platform.hostCoherent with
    | true => simp only [hc, if_true] at h; cases h; exact .nothing _
    | false =>
      simp only [hc, Bool.false_eq_true, if_false] at h
      cases h
      exact .invalidated a len _ hc (fun x hx => by simpa using List.mem_filter.1 hx)

/-- Everything one step can do when it answers a state. -/
inductive StepEffect (s : State) : State → Prop where
  | waits (hn : s.nextAgent = .host) (hs : s.script = []) : StepEffect s { s with schedule := s.schedule.tail }
  | host (op : HostOp) (rest : List HostOp) (t : State) (hn : s.nextAgent = .host) (hs : s.script = op :: rest)
      (h : HostEffect { s with schedule := s.schedule.tail, script := rest } op t) : StepEffect s t
  | nothingRuns (hn : s.nextAgent = .engine) (he : s.engine = .idle) :
      StepEffect s { s with schedule := s.schedule.tail }
  | completes (c : Snapshot) (hn : s.nextAgent = .engine) (he : s.engine = .busy c) :
      StepEffect s ({ s with schedule := s.schedule.tail }.complete c)
  | reset (hn : s.nextAgent = .reset) : StepEffect s { s with schedule := s.schedule.tail }.assertReset
  | release (hn : s.nextAgent = .release) : StepEffect s { s with schedule := s.schedule.tail }.releaseReset

theorem step_effect (s t : State) (h : step s = .next t) : StepEffect s t := by
  simp only [step] at h
  cases hn : s.nextAgent with
  | host =>
    simp only [hn, agentStep, hostStep] at h
    split at h
    · rename_i hs
      cases h
      exact .waits hn hs
    · rename_i op rest hs
      exact .host op rest t hn hs (hostAccess_effect op _ t h)
  | engine =>
    simp only [hn, agentStep, engineStep] at h
    split at h
    · rename_i he
      cases h
      exact .nothingRuns hn he
    · rename_i c he
      cases h
      exact .completes c hn he
  | reset =>
    simp only [hn, agentStep] at h
    cases h
    exact .reset hn
  | release =>
    simp only [hn, agentStep] at h
    cases h
    exact .release hn

/-- Only offset 0x08 is CMD (R23). -/
theorem regAt_cmd (offset : BitVec 6) (h : regAt offset = some .cmd) : offset = 0x08#6 := by
  revert offset
  decide

/-- Only offset 0x0C is STATUS (R23). -/
theorem regAt_status (offset : BitVec 6) (h : regAt offset = some .status) : offset = 0x0C#6 := by
  revert offset
  decide

/-- A register write leaves everything but the written register and STATUS's clearable bits. -/
theorem writeReg_frame (s : State) (d : Word) (r : Reg) :
    (writeReg s d r).platform = s.platform ∧ (writeReg s d r).engine = s.engine ∧
    (writeReg s d r).taint = s.taint ∧ (writeReg s d r).inReset = s.inReset ∧ (writeReg s d r).mem = s.mem ∧
    (writeReg s d r).dirty = s.dirty ∧ (writeReg s d r).stale = s.stale ∧ (writeReg s d r).cycles = s.cycles ∧
    (writeReg s d r).status.initDone = s.status.initDone ∧ (writeReg s d r).script = s.script ∧
    (writeReg s d r).schedule = s.schedule := by
  cases r <;> simp [writeReg, Status.writeOneToClear]

/-- Reset leaves the block as R45 says. -/
theorem assertReset_block (s : State) :
    s.assertReset.irqEn = false ∧ s.assertReset.status = Status.reset ∧ s.assertReset.srcAddr = 0#32 ∧
    s.assertReset.dstAddr = 0#32 ∧ s.assertReset.width = 0#16 ∧ s.assertReset.height = 0#16 ∧
    s.assertReset.cycles = 0#32 ∧ s.assertReset.engine = .idle ∧ s.assertReset.taint = false ∧
    s.assertReset.inReset = true := by
  simp [State.assertReset, State.clearBlock]

/-- What reset leaves of the rest, with no command running and with one. -/
theorem assertReset_rest (s : State) :
    s.assertReset.platform = s.platform ∧ s.assertReset.dirty = s.dirty ∧ s.assertReset.script = s.script ∧
    s.assertReset.schedule = s.schedule ∧ s.assertReset.responses = s.responses ∧
    (s.engine = .idle → s.assertReset.mem = s.mem ∧ s.assertReset.stale = s.stale) ∧
    (∀ c, s.engine = .busy c →
      s.assertReset.mem = Memory.fill s.mem (Config.anyByte s.drawCount) (addressesOf c.dstRange) ∧
      s.assertReset.stale = s.markStale c.dstRange) := by
  cases he : s.engine with
  | idle => simp [State.assertReset, State.clearBlock, State.abandon, he]
  | busy c => simp [State.assertReset, State.clearBlock, State.abandon, he]

end Sys2Proof.Machine
end

