-- ==== Sys2Proof/Tests/Slice0.lean ====
section
/-! SUPPORT. The model's own tests, with expected results from the spec's tables and vectors (spec/95_test_vectors.md,
and the rule named at each), and for every obligation with hypotheses a named witness that meets them. -/

namespace Sys2Proof.Tests

open Sys2Proof Sys2Proof.Machine

/-! ### Small states -/

/-- A coherent platform: REG_BASE 0x40000000, frames up to 8×8, all memory accessible, one device. -/
def platform : Platform :=
  { regBlock := 0x1000000#26
    halfMaxWidth := 3
    halfMaxHeight := 3
    hostCoherent := true
    memOk := [{ base := 0, size := 4294967296 }]
    devices := [{ base := 0x50000000, size := 0x100 }] }

/-- The same platform, not coherent. -/
def incoherent : Platform := { platform with hostCoherent := false }

/-- Bytes at an address and up. -/
def bytesAt (base : Nat) (bytes : List Byte) : Memory := bytes.mapIdx (fun k b => (base + k, b))

/-- State A of the vectors (7.2): just after reset. -/
def stateA : State := { State.reset with platform := platform }

/-- STATUS after INIT. -/
def initialized : Status := { Status.reset with done := true, initDone := true }

/-- State B of the vectors (7.2): after INIT, valid parameters for a 4×4 frame. -/
def stateB : State :=
  { stateA with status := initialized, srcAddr := 0x1000#32, dstAddr := 0x2000#32, width := 4#16, height := 4#16 }

/-- The six SRC bytes of program P1. -/
def bytesP1 : List Byte := [0x51#8, 0x91#8, 0x29#8, 0xEB#8, 0xF0#8, 0x5A#8]

/-- The snapshot of program P1's 2×2 frame, in a mode. -/
def snapshotP1 (m : Mode) : Snapshot :=
  { src := 0x1000#32, dst := 0x2000#32, w := 2#16, h := 2#16, mode := m, srcMem := bytesP1 }

/-- Program P1 between its PROCESS word and its completion: STATUS 0x00010001. -/
def busyP1 (m : Mode) : State :=
  { stateB with
    status := { Status.reset with initDone := true }
    width := 2#16
    height := 2#16
    mem := bytesAt 0x1000 bytesP1
    engine := .busy (snapshotP1 m) }

/-- The same, with byte 0x2005 of the DST range outside MEM_OK. -/
def busyBadBus : State := { busyP1 .raw with platform := { platform with memOk := [{ base := 0, size := 0x2005 }] } }

/-- The twelve DST bytes of the 2×2 frame after a step. -/
def dstAfter (o : Host.Outcome State Fault Refusal) : Option (List Byte) :=
  (nextOf o).map (fun t => Memory.readRange t.mem { base := 0x2000, size := 12 })

/-- STATUS as software reads it after a step. -/
def statusAfter (o : Host.Outcome State Fault Refusal) : Option Word := (nextOf o).map statusWord

/-- A host's access as the very next thing a state does. -/
def withOp (s : State) (op : HostOp) : State := { s with script := [op], schedule := [.host] }

/-! ### WellFormed refuses ill-formed terms (R101, R106, R130, R131, R60) -/

theorem test_wf_reserved_bits : CommandFields.wf { op := 2#4, mode := 0#2, rsvd := 1#26 } = false := by decide

theorem test_wf_reserved_op : CommandFields.wf { op := 3#4, mode := 0#2, rsvd := 0#26 } = false := by decide

theorem test_wf_mode_on_nop : CommandFields.wf { op := 0#4, mode := 1#2, rsvd := 0#26 } = false := by decide

theorem test_wf_mode_on_init : CommandFields.wf { op := 1#4, mode := 1#2, rsvd := 0#26 } = false := by decide

theorem test_wf_accepts : CommandFields.wf { op := 2#4, mode := 3#2, rsvd := 0#26 } = true := by decide

theorem test_wf_write_offset : HostOp.wf (.write 0x0A#6 [0#8, 0#8, 0#8, 0#8]) = false := by decide

theorem test_wf_write_width : HostOp.wf (.write 0x08#6 [0#8, 0#8]) = false := by decide

theorem test_wf_read_offset : HostOp.wf (.read 0x0D#6 .word) = false := by decide

theorem test_wf_read_width : HostOp.wf (.read 0x0C#6 .half) = false := by decide

theorem test_wf_past_the_end :
    HostOp.wf (.mem 0xFFFFFFFF [0#8, 0#8]) = false ∧ HostOp.wf (.store 0x100000000 0#8) = false ∧
    HostOp.wf (.load 0x100000000) = false ∧ HostOp.wf (.clean 0xFFFFFFFF 2) = false ∧
    HostOp.wf (.invalidate 0xFFFFFFFF 2) = false := by decide

/-! ### Decoding: the words of R105, lane by lane and as the opcode table numbers them -/

theorem test_decode_nop : decode [0x00#8, 0x00#8, 0x00#8, 0x00#8] = .ok .nop := by decide

theorem test_decode_init : decode [0x01#8, 0x00#8, 0x00#8, 0x00#8] = .ok .init := by decide

theorem test_decode_raw : decode [0x02#8, 0x00#8, 0x00#8, 0x00#8] = .ok .processRaw := by decide

theorem test_decode_gray : decode [0x12#8, 0x00#8, 0x00#8, 0x00#8] = .ok .processGray := by decide

theorem test_decode_edge : decode [0x22#8, 0x00#8, 0x00#8, 0x00#8] = .ok .processEdge := by decide

theorem test_decode_rsvd : decode [0x32#8, 0x00#8, 0x00#8, 0x00#8] = .ok .processRsvd := by decide

/-- Vectors 7.2: the illegal words, the highest reserved bit among them. -/
theorem test_decode_illegal :
    decodeTableWord 32 0x00000003 = none ∧ decodeTableWord 32 0x0000000F = none ∧
    decodeTableWord 32 0x00000010 = none ∧ decodeTableWord 32 0x00000011 = none ∧
    decodeTableWord 32 0x00000042 = none ∧ decodeTableWord 32 0x80000002 = none := by decide

/-- A CMD write of two lanes is no command (R67, R100). -/
theorem test_decode_narrow : decode [0x01#8, 0x00#8] = .error .wrongLength := by decide

/-- R112: the lanes of WR WIDTH, 0x00000004. -/
theorem test_wr_width : HostOp.wr .width 0x4#32 = .write 0x18#6 [0x04#8, 0x00#8, 0x00#8, 0x00#8] := by decide

/-! ### Commands: vectors 7.2 to 7.4 and programs P1 and P4 -/

theorem test_nop_busy : statusAfter (exec .nop (busyP1 .raw)) = some 0x00010001#32 := by decide

theorem test_init_reset : statusAfter (exec .init stateA) = some 0x00010002#32 := by decide

theorem test_init_busy : statusAfter (exec .init (busyP1 .raw)) = some 0x00010009#32 := by decide

theorem test_raw_accepted : statusAfter (exec .processRaw stateB) = some 0x00010001#32 := by decide

/-- P1: `EA 0F 0F FF 4F 4F C2 00 00 FF A9 A9`. -/
theorem test_raw_completes : dstAfter (engineStep (busyP1 .raw)) =
    some [0xEA#8, 0x0F#8, 0x0F#8, 0xFF#8, 0x4F#8, 0x4F#8, 0xC2#8, 0x00#8, 0x00#8, 0xFF#8, 0xA9#8, 0xA9#8] := by decide

theorem test_gray_not_init : statusAfter (exec .processGray stateA) = some 0x00000104#32 := by decide

/-- P1 with PROCESS GRAY: `50 50 50 83 83 83 3A 3A 3A C2 C2 C2`. -/
theorem test_gray_completes : dstAfter (engineStep (busyP1 .gray)) =
    some [0x50#8, 0x50#8, 0x50#8, 0x83#8, 0x83#8, 0x83#8, 0x3A#8, 0x3A#8, 0x3A#8, 0xC2#8, 0xC2#8, 0xC2#8] := by decide

/-- Vectors 7.3: SRC_ADDR = 0xFFFFFFF0 fails with RANGE. -/
theorem test_edge_range :
    statusAfter (exec .processEdge { stateB with srcAddr := 0xFFFFFFF0#32 }) = some 0x00010504#32 := by decide

/-- Vectors 5, E3: the four interior pixels of the frame. -/
theorem test_edge_frame :
    let I := fun x y => (([10, 20, 30, 40, 10, 25, 35, 40, 10, 20, 60, 40, 10, 20, 30, 40] : List Nat)).getD (4 * y + x) 0
    (edgeAt I 4 4 1 1, edgeAt I 4 4 2 1, edgeAt I 4 4 1 2, edgeAt I 4 4 2 2, edgeAt I 4 4 3 1) =
      (124, 92, 146, 76, 0) := by decide

theorem test_rsvd_bad_mode : statusAfter (exec .processRsvd stateB) = some 0x00010204#32 := by decide

theorem test_rsvd_not_init : statusAfter (exec .processRsvd stateA) = some 0x00000104#32 := by decide

/-- Vectors 7.2: an illegal word while idle. -/
theorem test_illegal_idle : statusAfter (commandWrite [0x42#8, 0#8, 0#8, 0#8] stateB) = some 0x00010804#32 := by decide

/-- Vectors 7.4: an illegal word while BUSY is rejected, not decoded. -/
theorem test_illegal_busy :
    statusAfter (commandWrite [0x03#8, 0#8, 0#8, 0#8] (busyP1 .raw)) = some 0x00010009#32 := by decide

/-- Vectors 7.3: BUS_ERROR at completion. -/
theorem test_bus_error : statusAfter (engineStep busyBadBus) = some 0x00010704#32 := by decide

/-! ### Registers: vectors 7.1 and 7.4 -/

theorem test_read_id : (nextOf (hostAccess (.read 0x00#6 .word) stateA)).map (fun t => t.responses) =
    some [.data [0x31#8, 0x32#8, 0x56#8, 0x4E#8]] := by decide

theorem test_read_half : (nextOf (hostAccess (.read 0x0C#6 .half) stateA)).map (fun t => t.responses) =
    some [.busError] := by decide

theorem test_write_width : (nextOf (hostAccess (.wr .width 0x12345678#32) stateA)).map (fun t => readReg t .width) =
    some 0x00005678#32 := by decide

/-- Vectors 7.4: acknowledging DONE lowers IRQ. -/
theorem test_acknowledge : (nextOf (hostAccess (.wr .status 0x2#32) { stateB with irqEn := true })).map
    (fun t => (statusWord t, t.irq)) = some (0x00010000#32, false) := by decide

/-! ### The host's cache: R78 and R85 on the platform that is not coherent -/

/-- State B on the platform that is not coherent, with a byte a host stored and did not clean, and that the block then
wrote: 0xEA, as vector P1 has it at 0x2000. -/
def overwritten : State :=
  { stateB with platform := incoherent, mem := [(0x2000, 0xEA#8)], dirty := [0x2000], stale := [0x2000] }

theorem test_uncleaned_store : (nextOf (hostAccess (.store 0x1000 0x51#8) { stateB with platform := incoherent })).map
    (fun t => (t.dirty, Memory.read t.mem 0x1000)) = some ([0x1000], 0x51#8) := by decide

/-- R78: once invalidated, the byte reads as the block wrote it. -/
theorem test_invalidate_keeps_result : (nextOf (hostAccess (.invalidate 0x2000 12) overwritten)).map
    (fun t => (t.dirty, t.stale, Memory.read t.mem 0x2000)) = some ([], [], 0xEA#8) := by decide

/-! ### The datapath: vectors 2.1, 3, 4.1 and 4.2 -/

/-- C4, C7, C8, C18 and C19. -/
theorem test_convert :
    [convertPixel 0 0 0, convertPixel 255 0 0, convertPixel 81 90 240, convertPixel 176 128 0, convertPixel 177 128 0] =
      [⟨0, 132, 0⟩, ⟨79, 255, 33⟩, ⟨234, 15, 15⟩, ⟨0, 255, 176⟩, ⟨1, 255, 177⟩] := by decide

/-- Y4, Y6, Y10 and Y12. -/
theorem test_luma : [luma ⟨0, 255, 0⟩, luma ⟨0, 72, 24⟩, luma ⟨255, 255, 0⟩, luma ⟨200, 100, 50⟩] =
    [149, 45, 225, 124] := by decide

theorem test_round_sqrt :
    [0, 1, 2, 3, 5, 6, 7, 8, 12, 13, 20, 64770, 64771, 1300500].map roundSqrt =
      [0, 1, 1, 2, 2, 2, 3, 3, 3, 4, 4, 254, 255, 1140] := by decide

/-- Windows S3, S11 and S12 around the pixel (1, 1). -/
theorem test_windows :
    let W := fun (l : List Nat) x y => l.getD (3 * y + x) 0
    let s3 := W [255, 0, 0, 255, 0, 0, 255, 0, 0]
    let s11 := W [0, 0, 0, 0, 0, 55, 0, 114, 1]
    let s12 := W [0, 0, 0, 0, 0, 8, 0, 127, 0]
    (gradientX s3 1 1, gradientY s3 1 1, gradientX s11 1 1, gradientY s11 1 1) = (-1020, 0, 111, 229) ∧
    [edgeAt s3 3 3 1 1, edgeAt s11 3 3 1 1, edgeAt s12 3 3 1 1] = [255, 254, 255] := by decide

/-! ### Witnesses: for every obligation with hypotheses, states and operands that meet all of them together -/

/-- State B with every parameter register at a given value. -/
def params (src dst : Word) (w h : Half) : State :=
  { stateB with srcAddr := src, dstAddr := dst, width := w, height := h }

/-- State B on the platform that is not coherent, with one uncleaned SRC byte, the last of its range. -/
def uncleaned : State := { stateB with platform := incoherent, dirty := [0x1017] }

theorem witness_ByteLanesLittleEndian : (3 : Nat) < 4 ∧ (7 : Nat) < 8 ∧ (0x80000000#32).getLsbD (8 * 3 + 7) = true := by
  decide

theorem witness_StepRunsDecodedCommand :
    let s := withOp stateB (.write 0x08#6 [0x02#8, 0x00#8, 0x00#8, 0x00#8])
    s.inReset = false ∧ s.nextAgent = .host ∧ s.script = .write 0x08#6 [0x02#8, 0x00#8, 0x00#8, 0x00#8] :: [] ∧
      decode [0x02#8, 0x00#8, 0x00#8, 0x00#8] = .ok .processRaw ∧ decode (lanesOfWord 0x2#32) = .ok .processRaw :=
  ⟨rfl, rfl, rfl, by decide, by decide⟩

theorem witness_CommandEntry_busy : (0x42#32 ≠ 0#32) ∧ (busyP1 .raw).busy = true := by decide

theorem witness_CommandEntry_idle : (0x42#32 ≠ 0#32) ∧ stateB.busy = false := by decide

theorem witness_IllegalCommandFails : stateB.busy = false ∧
    decode (lanesOfWord 0x80000002#32) = .error .reservedBitsSet := by decide

theorem witness_InitSucceeds : stateA.busy = false ∧ (nextOf (exec .init stateA)).isSome = true := by decide

theorem witness_BusyCommandsRejected : (busyP1 .edge).busy = true ∧ Instr.processRsvd ≠ .nop := by decide

theorem witness_ProcessNeedsInit : stateA.busy = false ∧ stateA.status.initDone = false ∧
    Instr.processEdge ≠ .nop ∧ Instr.processEdge ≠ .init := by decide

theorem witness_ReservedModeFails : stateB.busy = false ∧ stateB.status.initDone = true := by decide

/-- Check 3 alone: WIDTH = 0, with HEIGHT odd as well (vectors 7.3). -/
theorem witness_ParameterChecks_absent :
    let s := params 0x1000#32 0x2000#32 0#16 3#16
    s.busy = false ∧ s.status.initDone = true ∧ s.width.toNat = 0 := by decide

/-- Check 4: HEIGHT = MAX_HEIGHT + 2. -/
theorem witness_ParameterChecks_geometry :
    let s := params 0x1000#32 0x2000#32 4#16 10#16
    s.busy = false ∧ s.status.initDone = true ∧ s.platform.maxHeight < s.height.toNat ∧
    s.srcAddr.toNat ≠ 0 ∧ s.dstAddr.toNat ≠ 0 ∧ s.width.toNat ≠ 0 := by decide

/-- Check 5: one byte past the last address. -/
theorem witness_ParameterChecks_past :
    let s := params 0xFFFFFFE9#32 0x2000#32 4#16 8#16
    s.busy = false ∧ s.status.initDone = true ∧ 2 ^ 32 < s.srcAddr.toNat + 3 * s.width.toNat * s.height.toNat / 2 ∧
    s.width.toNat % 2 = 0 ∧ s.height.toNat % 2 = 0 ∧ s.width.toNat ≤ s.platform.maxWidth ∧
    s.height.toNat ≤ s.platform.maxHeight ∧ s.srcAddr.toNat ≠ 0 ∧ s.dstAddr.toNat ≠ 0 := by decide

/-- Check 6: the last DST byte is the first SRC byte (vectors 7.3). -/
theorem witness_ParameterChecks_overlap :
    let s := params 0x1000#32 0x0FD1#32 4#16 4#16
    s.srcAddr.toNat < s.dstAddr.toNat + 3 * s.width.toNat * s.height.toNat ∧
    s.dstAddr.toNat < s.srcAddr.toNat + 3 * s.width.toNat * s.height.toNat / 2 ∧
    s.srcAddr.toNat + 3 * s.width.toNat * s.height.toNat / 2 ≤ 2 ^ 32 ∧
    s.dstAddr.toNat + 3 * s.width.toNat * s.height.toNat ≤ 2 ^ 32 ∧ s.width.toNat % 2 = 0 ∧ s.height.toNat % 2 = 0 ∧
    s.width.toNat ≤ s.platform.maxWidth ∧ s.height.toNat ≤ s.platform.maxHeight := by decide

/-- The largest frame the platform takes, its SRC range ending at the last address, its DST range just below. -/
theorem witness_ProcessAccepted : (params 0xFFFFFFA0#32 0xFFFFFEE0#32 8#16 8#16).Launchable := by
  constructor <;> decide

theorem witness_ProcessAccepted_clear : (params 0xFFFFFFA0#32 0xFFFFFEE0#32 8#16 8#16).status.reject = false := rfl

theorem witness_LaunchRefusals_device :
    let s := params 0x4000003F#32 0x2000#32 4#16 4#16
    s.busy = false ∧ s.status.initDone = true ∧ s.parameterError = none ∧ s.platform.overDevice s.srcRange = true := by
  decide

theorem witness_LaunchRefusals_uncleaned :
    uncleaned.busy = false ∧ uncleaned.status.initDone = true ∧ uncleaned.parameterError = none ∧
    uncleaned.platform.overDevice uncleaned.srcRange = false ∧ uncleaned.platform.overDevice uncleaned.dstRange = false ∧
    uncleaned.platform.hostCoherent = false ∧ ∃ a ∈ uncleaned.dirty, uncleaned.srcRange.holds a = true := by decide

theorem witness_EvaluationFrame :
    (∃ t, exec .processGray stateB = .next t) ∧ (∃ t, exec .init (busyP1 .raw) = .next t) := ⟨⟨_, rfl⟩, ⟨_, rfl⟩⟩

theorem witness_RegisterReads : stateB.inReset = false ∧ 0x3C#6 ∈ [0x24#6, 0x28#6, 0x2C#6, 0x30#6, 0x34#6, 0x38#6, 0x3C#6] := by
  decide

theorem witness_RegisterWrites : (busyP1 .raw).inReset = false := rfl

theorem witness_StatusWriteOneToClear :
    let s := { stateB with status := { Status.reset with err := true, errCode := .badInput, initDone := true } }
    s.inReset = false ∧ statusWord s = 0x00010304#32 ∧
    (nextOf (hostAccess (.write 0x0C#6 (lanesOfWord 0x4#32)) s)).isSome = true := by decide

theorem witness_UnadmittedAccess : stateB.inReset = false ∧ (0x3F#6).toNat % 4 ≠ 0 ∧
    ([0#8, 0#8, 0#8, 0#8] : List Byte).length = 4 ∧ ([0#8, 0#8] : List Byte).length = 2 ∧ AccessSize.byte ≠ .word := by
  decide

theorem witness_RegisterAccessFrame :
    (∃ t, hostAccess (.write 0x18#6 (lanesOfWord 2#32)) (busyP1 .raw) = .next t) ∧ (0x18#6 ≠ 0x08#6) ∧
    (∃ t, hostAccess (.read 0x0C#6 .word) (busyP1 .raw) = .next t) ∧
    (∃ t, hostAccess (.poll .status 1#32 0#32) (busyP1 .raw) = .next t) :=
  ⟨⟨_, rfl⟩, by decide, ⟨_, rfl⟩, ⟨_, rfl⟩⟩

theorem witness_InterruptOutput :
    let s := { stateB with irqEn := true }
    s.busy = false ∧ s.irqEn = true ∧ s.inReset = false := by decide

theorem witness_PollRepeats :
    let s := withOp (busyP1 .raw) (.poll .status 1#32 0#32)
    s.inReset = false ∧ s.script = .poll .status 1#32 0#32 :: [] := ⟨rfl, rfl⟩

theorem witness_frame_launchable : { busyP1 .raw with engine := .idle }.Launchable := by constructor <;> decide

/-- Every byte the 2×2 frame of program P1 uses is accessible. -/
theorem witness_frame_accessible : { busyP1 .raw with engine := .idle }.Accessible := by
  refine ⟨fun k hk => ?_, fun k hk => ?_⟩
  · have h : ∀ k : Fin 6, platform.memOkAt (0x1000 + k.val) = true := by decide
    exact h ⟨k, hk⟩
  · have h : ∀ k : Fin 12, platform.memOkAt (0x2000 + k.val) = true := by decide
    exact h ⟨k, hk⟩

theorem witness_BusErrorCompletion : busyBadBus.engine = .busy (snapshotP1 .raw) ∧
    (snapshotP1 .raw).dstRange.holds 0x200B = true ∧ busyBadBus.platform.memOkAt 0x200B = false := by decide

theorem witness_TaintedCompletion :
    let s := { busyP1 .gray with taint := true }
    s.engine = .busy (snapshotP1 .gray) ∧ s.taint = true ∧
    ∀ a, (snapshotP1 .gray).srcRange.holds a = true ∨ (snapshotP1 .gray).dstRange.holds a = true →
      s.platform.memOkAt a = true := by
  refine ⟨rfl, rfl, fun a h => ?_⟩
  simp only [Range.holds, Bool.and_eq_true, decide_eq_true_eq, Snapshot.srcRange, Snapshot.dstRange, snapshotP1,
    srcLength, dstLength, BitVec.toNat_ofNat] at h
  simp only [Platform.memOkAt, busyP1, stateB, stateA, platform, List.any_cons, List.any_nil, Bool.or_false, Range.holds,
    Bool.and_eq_true, decide_eq_true_eq]
  omega

theorem witness_CompletionFrame : (busyP1 .edge).engine = .busy (snapshotP1 .edge) ∧
    (snapshotP1 .edge).Valid (busyP1 .edge).platform ∧ (snapshotP1 .edge).srcRange.holds 0x1005 = true ∧
    (snapshotP1 .edge).dstRange.holds 0x200C = false := by decide

/-- The last byte of the DST range on the platform that is not coherent. -/
theorem witness_CompletionFrame_stale :
    let s := { busyP1 .raw with platform := incoherent }
    s.engine = .busy (snapshotP1 .raw) ∧ s.platform.hostCoherent = false ∧
    (snapshotP1 .raw).dstRange.holds 0x200B = true := by decide

theorem witness_CompletionFrame_idle : stateB.engine = .idle := rfl

/-- Two states that run the same frame to different addresses, over different memory, platforms and registers. -/
theorem witness_ResultDependsOnlyOnSnapshot :
    let c := snapshotP1 .gray
    let c' := { snapshotP1 .gray with src := 0x8000#32, dst := 0xFFFFFFF4#32 }
    let s := busyP1 .gray
    let s' := { stateB with engine := .busy c', irqEn := true, srcAddr := 0#32, platform := incoherent }
    s.engine = .busy c ∧ s'.engine = .busy c' ∧ (c.srcMem = c'.srcMem ∧ c.w = c'.w ∧ c.h = c'.h ∧ c.mode = c'.mode) ∧
    s.taint = false ∧ s'.taint = false ∧ c.accessible s.platform = true ∧ c'.accessible s'.platform = true ∧
    11 < 3 * c.w.toNat * c.h.toNat ∧ (∃ t, engineStep s = .next t) ∧ ∃ t, engineStep s' = .next t :=
  ⟨rfl, rfl, ⟨rfl, rfl, rfl, rfl⟩, rfl, rfl, by decide, by decide, by decide, ⟨_, rfl⟩, ⟨_, rfl⟩⟩

theorem witness_inv : (busyP1 .raw).Inv where
  status := by decide
  run := ⟨by decide, fun _ => by decide, fun _ => by decide⟩
  cache := by decide
  reset := by decide
  memory := by decide

theorem witness_AcceptedCommandCompletes :
    { busyP1 .raw with schedule := [.engine, .host] }.Inv ∧ (busyP1 .raw).busy = true ∧ (busyP1 .raw).schedule = [] :=
  ⟨⟨by decide, ⟨by decide, fun _ => by decide, fun _ => by decide⟩, by decide, by decide, by decide⟩, by decide, rfl⟩

theorem witness_ResetStep : (busyP1 .raw).engine = .busy (snapshotP1 .raw) ∧
    (snapshotP1 .raw).dstRange.holds 0x1FFF = false ∧ stateB.busy = false ∧
    { busyP1 .raw with platform := incoherent }.engine = .busy (snapshotP1 .raw) ∧
    incoherent.hostCoherent = false ∧ (snapshotP1 .raw).dstRange.holds 0x2000 = true := by decide

theorem witness_StatusInvariantsKept : (busyP1 .raw).StatusInv ∧ ∃ t, step (busyP1 .raw) = .next t :=
  ⟨by decide, ⟨_, rfl⟩⟩

theorem witness_MachineInvariantKept : (busyP1 .raw).Inv ∧ ∃ t, step (busyP1 .raw) = .next t := ⟨witness_inv, ⟨_, rfl⟩⟩

theorem witness_InitDoneChanges_set :
    let s := withOp stateA (.wr .cmd 0x1#32)
    ∃ t, step s = .next t ∧ s.status.initDone = false ∧ t.status.initDone = true := ⟨_, rfl, rfl, rfl⟩

theorem witness_InitDoneChanges_cleared :
    let s := { stateB with schedule := [.reset] }
    ∃ t, step s = .next t ∧ s.status.initDone = true ∧ t.status.initDone = false := ⟨_, rfl, rfl, rfl⟩

theorem witness_EngineTransitions_started :
    let s := withOp stateB (.wr .cmd 0x12#32)
    ∃ t, step s = .next t ∧ s.engine = .idle ∧ t.busy = true := ⟨_, rfl, rfl, rfl⟩

theorem witness_EngineTransitions_ended :
    ∃ t, step (busyP1 .raw) = .next t ∧ (busyP1 .raw).engine = .busy (snapshotP1 .raw) ∧ t.busy = false :=
  ⟨_, rfl, rfl, rfl⟩

/-- Reset changes CYCLES from what a command left. -/
theorem witness_CyclesChanges :
    let s := { stateB with cycles := 7#32, schedule := [.reset] }
    ∃ t, step s = .next t ∧ t.cycles ≠ s.cycles := ⟨_, rfl, by decide⟩

theorem witness_RejectChanges_set :
    let s := withOp (busyP1 .raw) (.wr .cmd 0x3#32)
    ∃ t, step s = .next t ∧ s.status.reject = false ∧ t.status.reject = true := ⟨_, rfl, rfl, rfl⟩

theorem witness_RejectChanges_cleared :
    let s := withOp { stateB with status := { initialized with reject := true } } (.wr .status 0x8#32)
    ∃ t, step s = .next t ∧ s.status.reject = true ∧ t.status.reject = false := ⟨_, rfl, rfl, rfl⟩

/-- A host's store to the first byte of the SRC range: P1 has 0x51 there. -/
theorem witness_MemoryChanges :
    let s := withOp (busyP1 .raw) (.store 0x1000 0x52#8)
    ∃ t, step s = .next t ∧ Memory.read t.mem 0x1000 ≠ Memory.read s.mem 0x1000 := ⟨_, rfl, by decide⟩

theorem witness_MemoryChanges_engine :
    let s := { busyP1 .raw with mem := bytesAt 0x2000 [0x00#8] }
    ∃ t, step s = .next t ∧ Memory.read t.mem 0x2000 ≠ Memory.read s.mem 0x2000 := ⟨_, rfl, by decide⟩

theorem witness_PlatformFixed : ∃ t, step (withOp stateB (.wr .ctrl 1#32)) = .next t := ⟨_, rfl⟩

/-- The last byte of the DST range, the first past it, and the highest address; on either platform. -/
theorem witness_HostStoreTaints :
    ∀ p ∈ [platform, incoherent],
    let s := { busyP1 .raw with platform := p }
    (s.engine = .busy (snapshotP1 .raw) ∧ s.taint = false) ∧
    ∀ a ∈ [0x200B, 0x200C, 0xFFFFFFFF], a < 2 ^ 32 ∧ s.platform.devices.any (fun d => d.holds a) = false ∧
      s.platform.window.holds a = false := by decide

theorem witness_HostLoadAnswers :
    let s := busyP1 .raw
    0x1005 < 2 ^ 32 ∧ s.platform.devices.any (fun d => d.holds 0x1005) = false ∧
    s.platform.window.holds 0x1005 = false ∧ s.platform.hostCoherent = true ∧
    (snapshotP1 .raw).dstRange.holds 0x1005 = false ∧ (snapshotP1 .raw).dstRange.holds 0x2000 = true := by decide

theorem witness_MemStatementStores :
    let s := withOp stateB (.mem 0x1000 [0x80#8])
    s.script = .mem 0x1000 (0x80#8 :: []) :: [] ∧ s.platform.hostCoherent = true ∧ incoherent.hostCoherent = false ∧
    s.platform.devices.any (fun d => d.holds 0x1000) = false ∧
    s.platform.window.holds 0x1000 = false := by decide

theorem witness_CacheMaintenance : stateB.platform.hostCoherent = true ∧ uncleaned.platform.hostCoherent = false ∧
    0x1017 ∈ uncleaned.dirty ∧ 0x2000 ∈ overwritten.dirty ∧ 0x2000 ∈ overwritten.stale ∧
    overwritten.platform.hostCoherent = false ∧ overwritten.platform.memOkAt 0x2000 = true := by decide

/-- One state for each clause: another device's last byte; a stale byte with no command and with one running
elsewhere; the last byte of the register window, under reset and released. -/
theorem witness_HostAccessStops :
    let s := { stateB with platform := incoherent, stale := [0x2000, 0x3000] }
    let b := { busyP1 .raw with platform := incoherent, stale := [0x3000] }
    (0x500000FF < 2 ^ 32 ∧ s.platform.devices.any (fun d => d.holds 0x500000FF) = true) ∧
    (s.platform.devices.any (fun d => d.holds 0x2000) = false ∧ s.platform.window.holds 0x2000 = false ∧
      s.engine = .idle ∧ s.platform.hostCoherent = false ∧ 0x2000 ∈ s.stale) ∧
    (b.engine = .busy (snapshotP1 .raw) ∧ (snapshotP1 .raw).dstRange.holds 0x3000 = false ∧ 0x3000 ∈ b.stale ∧
      b.platform.devices.any (fun d => d.holds 0x3000) = false ∧ b.platform.window.holds 0x3000 = false) ∧
    (s.platform.window.holds 0x4000003F = true ∧ s.platform.devices.any (fun d => d.holds 0x4000003F) = false ∧
      s.inReset = false ∧ { s with inReset := true }.inReset = true) := by
  decide

/-- Program P1 with a DST byte stored and not cleaned before, on either platform. -/
theorem witness_CompletedBytesAreRead :
    ∀ p ∈ [platform, incoherent],
    let s := { busyP1 .raw with platform := p, dirty := [0x2000] }
    s.engine = .busy (snapshotP1 .raw) ∧ (snapshotP1 .raw).Valid s.platform ∧ s.taint = false ∧
    (snapshotP1 .raw).accessible s.platform = true ∧ (snapshotP1 .raw).dstRange.holds 0x2000 = true ∧
    (snapshotP1 .raw).dstRange.holds 0x200B = true := by decide

theorem witness_ConverterBounds : (0 : Nat) ≤ 255 ∧ (255 : Nat) ≤ 255 := by decide

/-- The last pixel of a 4×4 frame (vectors 2.2). -/
theorem witness_ChromaIndexing : 4 % 2 = 0 ∧ 3 < 4 ∧ uvIndex 4 3 3 = 6 := by decide

theorem witness_LumaRange : let p : Rgb := ⟨255, 255, 255⟩; p.r ≤ 255 ∧ p.g ≤ 255 ∧ p.b ≤ 255 := by decide

/-- Two frames of bytes that differ at the pixel (1, 1) alone (vector S9). -/
theorem witness_GradientBounds :
    let I : Nat → Nat → Nat := fun a b => if a = 1 ∧ b = 1 then 255 else 0
    let J : Nat → Nat → Nat := fun _ _ => 0
    (∀ a b, I a b ≤ 255) ∧ 1 ≤ 1 ∧ ∀ a b, ¬(a = 1 ∧ b = 1) → I a b = J a b := by
  refine ⟨fun a b => ?_, by decide, fun a b h => if_neg h⟩
  show (if a = 1 ∧ b = 1 then 255 else 0) ≤ 255
  split <;> omega

/-- The interior pixel of a 3×3 frame whose squared gradient is 64772 (vector S12). -/
theorem witness_EdgeClampThreshold :
    let I : Nat → Nat → Nat := fun x y => ([0, 0, 0, 0, 0, 8, 0, 127, 0] : List Nat).getD (3 * y + x) 0
    1 + 2 ≤ 3 ∧ 64771 ≤ gradientSquare I 1 1 := by decide

theorem witness_BorderIsZero : (5 : Nat) < 6 ∧ 5 + 1 = 6 ∧ (0 : Nat) < 2 := by decide

/-- A 2×2 frame of Y = 77 with neutral chroma. -/
theorem witness_FlatFrame :
    let sm : List Byte := [77#8, 77#8, 77#8, 77#8, 128#8, 128#8]
    sm.length = 3 * 2 * 2 / 2 ∧ (∀ k : Fin 4, sample sm k.val = 77) ∧
    (∀ k : Fin 2, sample sm (4 + k.val) = 128) ∧ (1 : Nat) < 2 := by decide

/-- The narrowest frame with such a line: 5 columns, the line in column 2. -/
theorem witness_VerticalLine :
    let I : Nat → Nat → Nat := fun a _ => if a = 2 then 255 else 0
    2 ≤ 2 ∧ 2 + 3 ≤ 5 ∧ ∀ a b, a < 5 → b < 4 → I a b = if a = 2 then 255 else 0 := ⟨le_rfl, le_rfl, fun _ _ _ _ => rfl⟩

end Sys2Proof.Tests
end

