-- ==== Sys2Proof/Proofs/Scope.lean ====
section
/-! The parameters of the block (R5) are kept by every step, and `isqrt` (R7) is the floor of the square root. -/

namespace Sys2Proof.Machine

/-! ### R5: the parameters, over what a command, a host's access and a step can do -/

theorem CommandEffect.platform_eq {s t : State} {i : Option Instr} (h : CommandEffect s i t) :
    t.platform = s.platform := by
  cases h with
  | nop => rfl
  | rejected => exact rejectCommand_platform s
  | init => rw [withStatus_platform, clearResult_platform]
  | failed => rw [raiseError_platform, clearResult_platform]
  | accepted => rw [accept_platform, clearResult_platform]

theorem HostEffect.platform_eq {s t : State} {op : HostOp} (h : HostEffect s op t) : t.platform = s.platform := by
  cases h with
  | nothing => rfl
  | register offset d r => rw [(writeReg_frame _ d r).1, respond_platform]
  | command offset w t _ _ ht => rw [ht.platform_eq, respond_platform]
  | answered | polled | stored | storedOnly | skipped | drawn | cleaned | invalidated => simp

theorem StepEffect.platform_eq {s t : State} (h : StepEffect s t) : t.platform = s.platform := by
  cases h with
  | waits | nothingRuns => rfl
  | host op rest t _ _ ht => exact ht.platform_eq
  | completes => rw [complete_platform]
  | reset => exact (assertReset_rest _).1
  | release => rw [releaseReset_platform]

/-- Settles O42: whatever agent moves, its effect leaves the parameters. -/
theorem platformFixed : Obligations.PlatformFixed := fun s t h => (step_effect s t h).platform_eq

/-! ### R7: `isqrt` computes the library's `Nat.sqrt`, one base 4 digit of its argument at a time -/

/-- The floor root of `n / 4` is all but the last binary digit of that of `n`. -/
theorem sqrt_eq_of_sqrt_div_four (n : Nat) :
    n.sqrt = if (2 * (n / 4).sqrt + 1) * (2 * (n / 4).sqrt + 1) ≤ n then 2 * (n / 4).sqrt + 1
      else 2 * (n / 4).sqrt := by
  have hle : (n / 4).sqrt * (n / 4).sqrt ≤ n / 4 := Nat.sqrt_le _
  have hlt : n / 4 < ((n / 4).sqrt + 1) * ((n / 4).sqrt + 1) := Nat.lt_succ_sqrt _
  generalize (n / 4).sqrt = r at hle hlt ⊢
  have heven : 2 * r * (2 * r) ≤ n := by
    calc 2 * r * (2 * r) = 4 * (r * r) := by ring
      _ ≤ n := by omega
  have hnext : n < (2 * r + 1 + 1) * (2 * r + 1 + 1) := by
    calc n < 4 * ((r + 1) * (r + 1)) := by omega
      _ = (2 * r + 1 + 1) * (2 * r + 1 + 1) := by ring
  symm
  split
  · next hodd => exact Nat.eq_sqrt.2 ⟨hodd, hnext⟩
  · next hodd => exact Nat.eq_sqrt.2 ⟨heven, Nat.lt_of_not_le hodd⟩

/-- Fuel `n` is enough, as each digit takes one unit and at least quarters `n`. -/
theorem isqrtFuel_eq_sqrt (fuel n : Nat) (h : n ≤ fuel) : isqrtFuel fuel n = n.sqrt := by
  induction fuel generalizing n with
  | zero =>
    obtain rfl := Nat.le_zero.1 h
    rw [isqrtFuel, Nat.sqrt_zero]
  | succ fuel ih =>
    rw [isqrtFuel]
    split
    · next hn => rw [hn, Nat.sqrt_zero]
    · next hn =>
      rw [ih (n / 4) (by omega)]
      exact (sqrt_eq_of_sqrt_div_four n).symm

theorem isqrt_eq_sqrt (n : Nat) : isqrt n = n.sqrt := isqrtFuel_eq_sqrt n n le_rfl

/-- Settles O54, through the library's floor root. -/
theorem isqrtIsFloorRoot : Obligations.IsqrtIsFloorRoot := by
  intro n
  rw [isqrt_eq_sqrt]
  exact ⟨Nat.sqrt_le n, Nat.lt_succ_sqrt n⟩

end Sys2Proof.Machine
end

/-! STATUS, the engine and IRQ (10_state.md): what a step does to STATUS and the engine is said once, as `BlockEffect`;
the rules on INIT_DONE, REJECT and the engine's transitions, and the invariants of R44, are read off it.
The invariant of the whole machine is kept part by part, over what a host's access and a step can do. -/

namespace Sys2Proof.Machine

/-! ### A word written to CMD and the command it decodes to -/

theorem lanesOfWord_eq_encode (w : Word) (i : Instr) (h : (decode (lanesOfWord w)).toOption = some i) :
    lanesOfWord w = encode i := by
  rw [decode_lanesOfWord, decodeWord] at h
  cases hd : decodeFields (unpackFields w) with
  | error r => rw [hd] at h; cases h
  | ok j =>
    rw [hd] at h
    cases h
    rw [encode, encodeWord, ← fields_of_decodeFields _ _ hd, pack_unpack]

theorem ne_zero_of_decode_ne_nop (w : Word) (h : (decode (lanesOfWord w)).toOption ≠ some .nop) : w ≠ 0#32 := by
  rintro rfl
  exact h (by decide)

/-! ### What a command does to INIT_DONE, REJECT and the engine -/

section command
variable {s t : State} {i : Option Instr}

theorem CommandEffect.initDone_cases (h : CommandEffect s i t) :
    t.status.initDone = s.status.initDone ∨ i = some .init ∧ t.status.initDone = true := by
  cases h with
  | init => exact .inr ⟨rfl, rfl⟩
  | rejected | nop | failed | accepted => exact .inl rfl

theorem CommandEffect.reject_cases (h : CommandEffect s i t) :
    t.status.reject = s.status.reject ∨ t.status.reject = true ∧ s.busy = true ∧ i ≠ some .nop := by
  cases h with
  | rejected _ hi hb => exact .inr ⟨rfl, hb, hi⟩
  | nop | init | failed | accepted => exact .inl rfl

theorem CommandEffect.engine_cases (h : CommandEffect s i t) :
    t.engine = s.engine ∨ s.busy = false ∧ ∃ m : Mode, i = some m.instr := by
  cases h with
  | accepted m hb => exact .inr ⟨hb, m, rfl⟩
  | rejected | nop | init | failed => exact .inl rfl

end command

/-! ### What a step does to STATUS and the engine -/

/-- What a host's access can do to STATUS and the engine. -/
theorem HostEffect.block_cases {s t : State} {op : HostOp} (h : HostEffect s op t) :
    (t.status = s.status ∧ t.engine = s.engine) ∨
    (∃ d, op = .write 0x0C#6 (lanesOfWord d) ∧ t.status = s.status.writeOneToClear d ∧ t.engine = s.engine) ∨
    (∃ w, op = .write 0x08#6 (lanesOfWord w) ∧
      CommandEffect (s.respond .okay) (decode (lanesOfWord w)).toOption t) := by
  cases h with
  | register offset d r _ hr hc =>
    cases r with
    | cmd => exact absurd rfl hc
    | status =>
      obtain rfl := regAt_status offset hr
      exact .inr (.inl ⟨d, rfl, rfl, rfl⟩)
    | id | ctrl | srcAddr | dstAddr | width | height | cycles => exact .inl ⟨rfl, rfl⟩
  | command offset w t _ hr ht =>
    obtain rfl := regAt_cmd offset hr
    exact .inr (.inr ⟨w, rfl, ht⟩)
  | answered | polled | nothing | stored | storedOnly | skipped | drawn | cleaned | invalidated =>
    exact .inl ⟨rfl, rfl⟩

/-- What a step can do to STATUS and the engine, and whose step it then is. -/
inductive BlockEffect (s t : State) : Prop where
  | kept (hst : t.status = s.status) (he : t.engine = s.engine)
  | acknowledged (d : Word) (rest : List HostOp) (hn : s.nextAgent = .host)
      (hs : s.script = .write 0x0C#6 (lanesOfWord d) :: rest) (hst : t.status = s.status.writeOneToClear d)
      (he : t.engine = s.engine)
  | command (w : Word) (rest : List HostOp) (hn : s.nextAgent = .host)
      (hs : s.script = .write 0x08#6 (lanesOfWord w) :: rest)
      (ht : CommandEffect ({ s with schedule := s.schedule.tail, script := rest }.respond .okay)
        (decode (lanesOfWord w)).toOption t)
  | completed (c : Snapshot) (hn : s.nextAgent = .engine) (hc : s.engine = .busy c)
      (hst : t.status = completionStatus s c) (he : t.engine = .idle)
  | reset (hn : s.nextAgent = .reset) (hst : t.status = Status.reset) (he : t.engine = .idle)

theorem StepEffect.block {s t : State} (h : StepEffect s t) : BlockEffect s t := by
  cases h with
  | waits | nothingRuns | release => exact .kept rfl rfl
  | host op rest t hn hs ht =>
    obtain ⟨hst, he⟩ | ⟨d, rfl, hst, he⟩ | ⟨w, rfl, hw⟩ := ht.block_cases
    · exact .kept hst he
    · exact .acknowledged d rest hn hs hst he
    · exact .command w rest hn hs hw
  | completes c hn hc => exact .completed c hn hc rfl rfl
  | reset hn => exact .reset hn rfl rfl

theorem step_block {s t : State} (h : step s = .next t) : BlockEffect s t := (step_effect s t h).block

theorem completionStatus_initDone (s : State) (c : Snapshot) :
    (completionStatus s c).initDone = s.status.initDone := by
  unfold completionStatus
  split <;> rfl

theorem completionStatus_reject (s : State) (c : Snapshot) : (completionStatus s c).reject = s.status.reject := by
  unfold completionStatus
  split <;> rfl

/-! ### R32, R30, R39: who changes INIT_DONE, REJECT and the engine -/

/-- A bit that stays, or is set by `P`, or is cleared by `Q`, changes in these two ways only. -/
theorem bit_changes {b b' : Bool} {P Q : Prop} (h : b' = b ∨ (b' = true ∧ P) ∨ (b' = false ∧ Q)) :
    (b = false → b' = true → P) ∧ (b = true → b' = false → Q) := by
  obtain rfl | ⟨rfl, hP⟩ | ⟨rfl, hQ⟩ := h
  · exact ⟨fun h0 h1 => by simp [h0] at h1, fun h1 h0 => by simp [h0] at h1⟩
  · exact ⟨fun _ _ => hP, nofun⟩
  · exact ⟨nofun, fun _ _ => hQ⟩

theorem BlockEffect.initDone_cases {s t : State} (h : BlockEffect s t) :
    t.status.initDone = s.status.initDone ∨
    (t.status.initDone = true ∧ s.nextAgent = .host ∧ ∃ rest, s.script = .write 0x08#6 (encode .init) :: rest) ∨
    (t.status.initDone = false ∧ s.nextAgent = .reset) := by
  cases h with
  | kept hst => exact .inl (by rw [hst])
  | acknowledged d rest _ _ hst => exact .inl (by rw [hst]; rfl)
  | command w rest hn hs ht =>
    refine ht.initDone_cases.imp id fun ⟨hi, hset⟩ => .inl ⟨hset, hn, rest, ?_⟩
    rw [hs, lanesOfWord_eq_encode w .init hi]
  | completed c _ _ hst => exact .inl (by rw [hst, completionStatus_initDone])
  | reset hn hst => exact .inr (.inr ⟨by rw [hst]; rfl, hn⟩)

/-- Settles O37: of all that a step can do to STATUS, only INIT sets INIT_DONE and only reset clears it. -/
theorem initDoneChanges : Obligations.InitDoneChanges :=
  fun _ _ h => bit_changes (step_block h).initDone_cases

theorem BlockEffect.reject_cases {s t : State} (h : BlockEffect s t) :
    t.status.reject = s.status.reject ∨
    (t.status.reject = true ∧ s.busy = true ∧ s.nextAgent = .host ∧
      ∃ w rest, w ≠ 0#32 ∧ s.script = .write 0x08#6 (lanesOfWord w) :: rest) ∨
    (t.status.reject = false ∧ (s.nextAgent = .reset ∨
      s.nextAgent = .host ∧ ∃ d rest, d.getLsbD 3 = true ∧ s.script = .write 0x0C#6 (lanesOfWord d) :: rest)) := by
  cases h with
  | kept hst => exact .inl (by rw [hst])
  | acknowledged d rest hn hs hst =>
    rw [hst]
    cases hd : d.getLsbD 3 with
    | false => exact .inl (by simp only [Status.writeOneToClear, hd, Bool.not_false, Bool.and_true])
    | true => exact .inr (.inr ⟨by simp [Status.writeOneToClear, hd], .inr ⟨hn, d, rest, hd, hs⟩⟩)
  | command w rest hn hs ht =>
    exact ht.reject_cases.imp id fun ⟨hset, hb, hi⟩ =>
      .inl ⟨hset, hb, hn, w, rest, ne_zero_of_decode_ne_nop w hi, hs⟩
  | completed c _ _ hst => exact .inl (by rw [hst, completionStatus_reject])
  | reset hn hst => exact .inr (.inr ⟨by rw [hst]; rfl, .inl hn⟩)

/-- Settles O40: a word discarded while BUSY sets REJECT, a STATUS write with bit 3 set or reset clears it, and
nothing else that a step can do touches it. -/
theorem rejectChanges : Obligations.RejectChanges :=
  fun _ _ h => bit_changes (step_block h).reject_cases

/-- Settles O38: an accepted PROCESS word starts the engine, its completion and reset stop it, and nothing else that a
step can do touches it. -/
theorem engineTransitions : Obligations.EngineTransitions := by
  intro s t h
  cases step_block h with
  | kept _ he | acknowledged _ _ _ _ _ he => exact ⟨fun h0 => .inl (he.trans h0), fun c hc => .inl (he.trans hc)⟩
  | command w rest hn hs ht =>
    obtain he | ⟨hb, m, hm⟩ := ht.engine_cases
    · exact ⟨fun h0 => .inl (he.trans h0), fun c hc => .inl (he.trans hc)⟩
    · refine ⟨fun _ => .inr ⟨hn, m, rest, by rw [hs, lanesOfWord_eq_encode w _ hm]⟩, fun c hc => ?_⟩
      cases (busy_of_busy s c hc).symm.trans hb
  | completed c hn _ _ he => exact ⟨fun _ => .inl he, fun _ _ => .inr ⟨he, .inl hn⟩⟩
  | reset hn _ he => exact ⟨fun _ => .inl he, fun _ _ => .inr ⟨he, .inr hn⟩⟩

/-! ### R44: the four invariants of STATUS -/

/-- A command sets DONE or ERR only while idle and with the previous result cleared, and BUSY only after INIT. -/
theorem CommandEffect.statusInv {s t : State} {i : Option Instr} (h : CommandEffect s i t) (hs : s.StatusInv) :
    t.StatusInv := by
  cases h with
  | rejected | nop => exact hs
  | init hb => simp [State.StatusInv, hb]
  | failed _ c _ hc hb => simp [State.StatusInv, hb, hc]
  | accepted m _ hi => simp [State.StatusInv, hi]

theorem statusInv_of_writeOneToClear {s t : State} (d : Word) (hst : t.status = s.status.writeOneToClear d)
    (he : t.engine = s.engine) (hs : s.StatusInv) : t.StatusInv := by
  obtain ⟨hexcl, hcode, hinit, hclear⟩ := hs
  rw [State.StatusInv, hst, busy_congr s t he]
  refine ⟨fun hd => ?_, ?_, hinit, fun hb => ?_⟩
  · simp only [Status.writeOneToClear, Bool.and_eq_true] at hd ⊢
    simp [hexcl hd.1]
  · simp only [Status.writeOneToClear]
    cases d.getLsbD 2 with
    | false => simpa using hcode
    | true => simp
  · simp [Status.writeOneToClear, hclear hb]

/-- A completion finds DONE and ERR clear, as R44 has it of a running command, and sets one of them. -/
theorem statusInv_of_completed {s t : State} (c : Snapshot) (hc : s.engine = .busy c)
    (hst : t.status = completionStatus s c) (he : t.engine = .idle) (hs : s.StatusInv) : t.StatusInv := by
  obtain ⟨-, hcode, -, hclear⟩ := hs
  obtain ⟨hdone, herr⟩ := hclear (busy_of_busy s c hc)
  rw [State.StatusInv, hst, busy_of_idle t he, completionStatus]
  split
  · simp [herr, hcode.1 herr]
  · simp [hdone]

theorem BlockEffect.statusInv {s t : State} (h : BlockEffect s t) (hs : s.StatusInv) : t.StatusInv := by
  cases h with
  | kept hst he => rwa [State.StatusInv, hst, busy_congr s t he]
  | acknowledged d _ _ _ hst he => exact statusInv_of_writeOneToClear d hst he hs
  | command w rest _ _ ht => exact ht.statusInv hs
  | completed c _ hc hst he => exact statusInv_of_completed c hc hst he hs
  | reset _ hst he => simp [State.StatusInv, hst, busy_of_idle t he, Status.reset]

/-- Settles O34: the reset state by its values, a step by what it can do to STATUS and the engine. -/
theorem statusInvariantsKept : Obligations.StatusInvariantsKept :=
  ⟨by decide, fun _ _ hs h => (step_block h).statusInv hs⟩

/-! ### The running command and the memory it reads -/

/-- A running command's part of the invariant survives what leaves its snapshot alone and, unless it taints, the
bytes of its SRC range and the cache's record of them. -/
theorem runInv_of_frame {s t : State} (hp : t.platform = s.platform) (he : t.engine = s.engine)
    (hidle : s.engine = .idle → t.taint = s.taint)
    (hrun : ∀ c, s.engine = .busy c → t.taint = false → s.taint = false ∧
      ∀ a, c.srcRange.holds a = true → Memory.read t.mem a = Memory.read s.mem a ∧ (a ∈ t.dirty → a ∈ s.dirty))
    (hs : s.RunInv) : t.RunInv := by
  rw [State.RunInv, he, hp]
  rw [State.RunInv] at hs
  cases hc : s.engine with
  | idle => simp only [hc] at hs ⊢; rw [hidle hc, hs]
  | busy c =>
    simp only [hc] at hs ⊢
    obtain ⟨hvalid, hmem, hdirty⟩ := hs
    refine ⟨hvalid, fun ht => ?_, fun ht => ?_⟩ <;> obtain ⟨hst, hframe⟩ := hrun c hc ht
    · rw [hmem hst]
      exact (readRange_congr _ _ _ fun a ha => (hframe a ha).1).symm
    · have := hdirty hst
      simp only [List.any_eq_false] at this ⊢
      exact fun a ha hsrc => this a ((hframe a hsrc).2 ha) hsrc

theorem inFlight_of_src {s : State} {c : Snapshot} {a : Nat} (hc : s.engine = .busy c)
    (ha : c.srcRange.holds a = true) : s.inFlight a = true := by
  simp [State.inFlight, hc, ha]

theorem inFlight_of_idle {s : State} (a : Nat) (hc : s.engine = .idle) : s.inFlight a = false := by
  simp [State.inFlight, hc]

/-- A host's store that does not taint lies outside the SRC range. -/
theorem runInv_hostWrite {s : State} (a : Nat) (b : Byte) (cleaned : Bool) (hs : s.RunInv) :
    ({ s with dirty := s.dirtyAfterStore a cleaned }.hostWrite a b).RunInv := by
  refine runInv_of_frame (s := s) rfl rfl (fun hc => ?_) (fun c hc ht => ?_) hs
  · show (s.taint || s.inFlight a) = s.taint
    rw [inFlight_of_idle a hc, Bool.or_false]
  · obtain ⟨hst, hout⟩ : s.taint = false ∧ s.inFlight a = false := Bool.or_eq_false_iff.1 ht
    refine ⟨hst, fun x hx => ?_⟩
    have hxa : x ≠ a := by
      rintro rfl
      cases (inFlight_of_src hc hx).symm.trans hout
    refine ⟨read_write_other _ _ _ _ hxa, fun hd => ?_⟩
    simpa [hxa] using (mem_dirtyAfterStore s a x cleaned).1 hd

/-- A clean that does not taint changes no byte of the SRC range. -/
theorem runInv_cleaned {s : State} (as lost : List Nat) (hl : ∀ x ∈ lost, x ∈ as) (hs : s.RunInv) :
    ({ s.settleDirty as lost with taint := s.taint || as.any s.inFlight } : State).RunInv := by
  refine runInv_of_frame (s := s) rfl rfl (fun hc => ?_) (fun c hc ht => ?_) hs
  · simp [inFlight_of_idle _ hc]
  · obtain ⟨hst, hout⟩ := Bool.or_eq_false_iff.1 ht
    refine ⟨hst, fun x hx => ⟨read_fill_out _ _ _ _ fun hxl => ?_, fun hd => (List.mem_filter.1 hd).1⟩⟩
    exact List.any_eq_false.1 hout x (hl x hxl) (inFlight_of_src hc hx)

/-- An invalidation loses only bytes not cleaned, and an untainted command has none in its SRC range. -/
theorem runInv_invalidated {s : State} (as lost stale : List Nat) (hl : ∀ x ∈ lost, x ∈ s.dirty) (hs : s.RunInv) :
    ({ s.settleDirty as lost with stale := stale } : State).RunInv := by
  refine runInv_of_frame (s := s) rfl rfl (fun _ => rfl) (fun c hc hst => ?_) hs
  have hdirty : s.dirty.any c.srcRange.holds = false := by
    rw [State.RunInv, hc] at hs
    exact hs.2.2 hst
  refine ⟨hst, fun x hx => ⟨read_fill_out _ _ _ _ fun hxl => ?_, fun hd => (List.mem_filter.1 hd).1⟩⟩
  exact List.any_eq_false.1 hdirty x (hl x hxl) hx

/-- Acceptance takes S_MEM from memory as it is, after the checks and the launch duties (R73, R85, R219). -/
theorem CommandEffect.runInv {s t : State} {i : Option Instr} (h : CommandEffect s i t) (hcache : s.CacheInv)
    (hs : s.RunInv) : t.RunInv := by
  cases h with
  | rejected | nop | init | failed => exact hs
  | accepted m _ _ hp hd hu =>
    refine ⟨snapshot_valid s m hp hd, fun _ => rfl, fun _ => ?_⟩
    show s.dirty.any s.srcRange.holds = false
    cases hco : s.platform.hostCoherent with
    | true => rw [(hcache.1 hco).1]; rfl
    | false => simpa [State.launchUncleaned, hco] using hu

theorem HostEffect.runInv {s t : State} {op : HostOp} (h : HostEffect s op t) (hcache : s.CacheInv)
    (hs : s.RunInv) : t.RunInv := by
  cases h with
  | answered | polled | nothing | skipped | drawn => exact hs
  | register _ d r => cases r <;> exact hs
  | command _ _ _ _ _ ht => exact ht.runInv hcache hs
  | stored a b => exact runInv_hostWrite a b true hs
  | storedOnly a b => exact runInv_hostWrite a b false hs
  | cleaned a len lost _ hl => exact runInv_cleaned _ lost hl hs
  | invalidated a len lost _ hl => exact runInv_invalidated _ lost _ (fun x hx => (List.mem_filter.1 (hl x hx).1).1) hs

theorem StepEffect.runInv {s t : State} (h : StepEffect s t) (hcache : s.CacheInv) (hs : s.RunInv) : t.RunInv := by
  cases h with
  | waits | nothingRuns | release => exact hs
  | host _ _ _ _ _ ht => exact ht.runInv hcache hs
  | completes | reset => rfl

/-! ### The cache's record -/

/-- The record stays in bounds where it only loses entries or gains addresses that exist, and empty on a coherent
platform where it gains nothing there. -/
theorem cacheInv_of_subset {s t : State} (hp : t.platform = s.platform)
    (hd : s.platform.hostCoherent = true → t.dirty ⊆ s.dirty) (hst : s.platform.hostCoherent = true → t.stale ⊆ s.stale)
    (hnew : ∀ a ∈ t.dirty, a ∈ s.dirty ∨ a < Config.addressSpace) (hs : s.CacheInv) : t.CacheInv := by
  obtain ⟨hempty, hbound⟩ := hs
  rw [State.CacheInv, hp]
  refine ⟨fun hc => ?_, ?_⟩
  · have hd := hd hc
    have hst := hst hc
    rw [(hempty hc).1] at hd
    rw [(hempty hc).2] at hst
    exact ⟨List.subset_nil.1 hd, List.subset_nil.1 hst⟩
  · simp only [List.all_eq_true, decide_eq_true_eq] at hbound ⊢
    exact fun a ha => (hnew a ha).elim (hbound a) id

theorem cacheInv_hostWrite {s : State} (a : Nat) (b : Byte) (cleaned : Bool) (ha : a < Config.addressSpace)
    (hs : s.CacheInv) : ({ s with dirty := s.dirtyAfterStore a cleaned }.hostWrite a b).CacheInv := by
  refine cacheInv_of_subset (s := s) rfl (fun hc x hx => ?_) (fun _ _ hx => (List.mem_filter.1 hx).1)
    (fun x hx => ?_) hs
  · simpa [hc] using (mem_dirtyAfterStore s a x cleaned).1 hx
  · by_cases hxa : x = a
    · exact .inr (hxa ▸ ha)
    · exact .inl (by simpa [hxa] using (mem_dirtyAfterStore s a x cleaned).1 hx)

/-- A clean or an invalidation only shrinks the record of uncleaned bytes, and acts on a platform that is not coherent
only. -/
theorem cacheInv_settled {s t : State} (as : List Nat) (hc : s.platform.hostCoherent = false)
    (hp : t.platform = s.platform) (hd : t.dirty = s.dirty.filter (fun a => !as.contains a)) (hs : s.CacheInv) :
    t.CacheInv :=
  cacheInv_of_subset hp (by simp [hc]) (by simp [hc]) (fun a ha => .inl (List.mem_filter.1 (hd ▸ ha)).1) hs

theorem HostEffect.cacheInv {s t : State} {op : HostOp} (h : HostEffect s op t) (hs : s.CacheInv) : t.CacheInv := by
  cases h with
  | answered | polled | nothing | skipped | drawn => exact hs
  | register _ d r => cases r <;> exact hs
  | command _ _ t _ _ ht => rw [commandEffect_frame _ t _ ht]; exact hs
  | stored a b _ ha => exact cacheInv_hostWrite a b true ha hs
  | storedOnly a b ha => exact cacheInv_hostWrite a b false ha hs
  | cleaned _ _ _ hc => exact cacheInv_settled _ hc rfl rfl hs
  | invalidated _ _ _ hc => exact cacheInv_settled _ hc rfl rfl hs

theorem markStale_coherent (s : State) (r : Range) (hc : s.platform.hostCoherent = true) : s.markStale r = s.stale := by
  simp [State.markStale, hc]

/-- Ending a command marks its DST range stale on a platform that is not coherent only. -/
theorem cacheInv_markStale {s t : State} (r : Range) (hp : t.platform = s.platform) (hd : t.dirty = s.dirty)
    (hst : t.stale = s.markStale r) (hs : s.CacheInv) : t.CacheInv :=
  cacheInv_of_subset hp (fun _ => hd ▸ List.Subset.refl _)
    (fun hc => by rw [hst, markStale_coherent s r hc]; exact List.Subset.refl _) (fun _ ha => .inl (hd ▸ ha)) hs

theorem cacheInv_assertReset {s : State} (hs : s.CacheInv) : s.assertReset.CacheInv := by
  obtain ⟨hp, hd, -, -, -, hidle, hbusy⟩ := assertReset_rest s
  cases hc : s.engine with
  | idle => rwa [State.CacheInv, hp, hd, (hidle hc).2]
  | busy c => exact cacheInv_markStale c.dstRange hp hd (hbusy c hc).2 hs

theorem StepEffect.cacheInv {s t : State} (h : StepEffect s t) (hs : s.CacheInv) : t.CacheInv := by
  cases h with
  | waits | nothingRuns | release => exact hs
  | host _ _ _ _ _ ht => exact ht.cacheInv hs
  | completes c => exact cacheInv_markStale (s := s) c.dstRange rfl rfl rfl hs
  | reset => exact cacheInv_assertReset hs

/-! ### The block under reset -/

/-- While reset is asserted no host's access reaches a register. -/
theorem HostEffect.resetInv {s t : State} {op : HostOp} (h : HostEffect s op t) (hs : s.ResetInv) : t.ResetInv := by
  cases h with
  | answered | polled | nothing | skipped | drawn | stored | storedOnly | cleaned | invalidated => exact hs
  | register _ d r hr =>
    obtain ⟨-, -, -, hin, -⟩ := writeReg_frame (s.respond .okay) d r
    exact fun h => by simp [hin, hr] at h
  | command _ _ t hr _ ht =>
    rw [commandEffect_frame _ t _ ht]
    exact fun h => by simp [hr] at h

/-- No command completes while reset is asserted, as the engine is then IDLE. -/
theorem StepEffect.resetInv {s t : State} (h : StepEffect s t) (hs : s.ResetInv) : t.ResetInv := by
  cases h with
  | waits | nothingRuns => exact hs
  | host _ _ _ _ _ ht => exact ht.resetInv hs
  | completes c _ hc =>
    intro h
    obtain ⟨-, -, -, -, -, -, -, hidle⟩ := hs h
    cases hc.symm.trans hidle
  | reset => exact fun _ => ⟨rfl, rfl, rfl, rfl, rfl, rfl, rfl, rfl⟩
  | release => exact nofun

/-! ### The canonical form of memory -/

/-- A host's cache loses only bytes it had, and those lie in the address space. -/
theorem wf_fill_dirty {s : State} (f : Nat → Byte) (lost : List Nat) (hl : ∀ x ∈ lost, x ∈ s.dirty)
    (hcache : s.CacheInv) (hm : Memory.wf s.mem = true) : Memory.wf (Memory.fill s.mem f lost) = true :=
  wf_fill f lost s.mem (fun x hx => by simpa using List.all_eq_true.1 hcache.2 x (hl x hx)) hm

theorem HostEffect.memory_wf {s t : State} {op : HostOp} (h : HostEffect s op t) (hcache : s.CacheInv)
    (hm : Memory.wf s.mem = true) : Memory.wf t.mem = true := by
  cases h with
  | answered | polled | nothing | skipped | drawn => exact hm
  | register _ d r => cases r <;> exact hm
  | command _ _ t _ _ ht => rw [commandEffect_frame _ t _ ht]; exact hm
  | stored a b _ ha => exact wf_write _ a b ha hm
  | storedOnly a b ha => exact wf_write _ a b ha hm
  | cleaned _ _ lost _ hl => exact wf_fill_dirty _ lost (fun x hx => (List.mem_filter.1 (hl x hx)).1) hcache hm
  | invalidated _ _ lost _ hl =>
    exact wf_fill_dirty _ lost (fun x hx => (List.mem_filter.1 (hl x hx).1).1) hcache hm

theorem runInv_valid {s : State} {c : Snapshot} (hc : s.engine = .busy c) (hs : s.RunInv) : c.Valid s.platform := by
  rw [State.RunInv, hc] at hs
  exact hs.1

/-- Reset writes at most the DST range of the command it abandons. -/
theorem memory_wf_assertReset {s : State} (hrun : s.RunInv) (hm : Memory.wf s.mem = true) :
    Memory.wf s.assertReset.mem = true := by
  obtain ⟨-, -, -, -, -, hidle, hbusy⟩ := assertReset_rest s
  cases hc : s.engine with
  | idle => rwa [(hidle hc).1]
  | busy c =>
    rw [(hbusy c hc).1]
    exact wf_fill _ _ _ (dst_in_space c _ (runInv_valid hc hrun)) hm

theorem StepEffect.memory_wf {s t : State} (h : StepEffect s t) (hcache : s.CacheInv) (hrun : s.RunInv)
    (hm : Memory.wf s.mem = true) : Memory.wf t.mem = true := by
  cases h with
  | waits | nothingRuns | release => exact hm
  | host _ _ _ _ _ ht => exact ht.memory_wf hcache hm
  | completes c _ hc => exact completionMem_wf _ c (runInv_valid hc hrun) hm
  | reset => exact memory_wf_assertReset hrun hm

/-! ### The invariant of the whole machine -/

/-- Settles O35, from the values the machine has at reset. -/
theorem machineInvariantAtReset : Obligations.MachineInvariantAtReset where
  status := statusInvariantsKept.1
  run := rfl
  cache := ⟨fun _ => ⟨rfl, rfl⟩, rfl⟩
  reset := nofun
  memory := wf_reset

/-- Settles O36: each part is kept, memory's form with the help of the bounds the other parts give. -/
theorem machineInvariantKept : Obligations.MachineInvariantKept := by
  intro s t hs h
  have heff := step_effect s t h
  exact
    { status := heff.block.statusInv hs.status
      run := heff.runInv hs.cache hs.run
      cache := heff.cacheInv hs.cache
      reset := heff.resetInv hs.reset
      memory := heff.memory_wf hs.cache hs.run hs.memory }

/-! ### What a host reads at reset, and the interrupt output -/

/-- Settles O32, register by register. -/
theorem resetValues : Obligations.ResetValues := by
  refine ⟨rfl, fun r hr => ?_, rfl, rfl, rfl⟩
  cases r with
  | id => exact absurd rfl hr
  | ctrl | cmd | status | srcAddr | dstAddr | width | height | cycles => rfl

@[simp] theorem regAt_offset (r : Reg) : regAt r.offset = some r := by cases r <;> rfl

@[simp] theorem offsetAligned_offset (r : Reg) : offsetAligned r.offset = true := by cases r <;> rfl

/-- An admitted write to a register other than CMD. -/
theorem hostAccess_wr (s : State) (r : Reg) (d : Word) (hs : s.inReset = false) (hr : r ≠ .cmd) :
    hostAccess (.wr r d) s = .next (writeReg (s.respond .okay) d r) := by
  simp only [hostAccess, HostOp.wr, registerWrite, hs, Bool.false_eq_true, if_false, offsetAligned_offset,
    wordOfLanes_lanesOfWord, commitWrite, regAt_offset]

theorem irq_eq_true_iff (s : State) : s.irq = true ↔ s.irqEn = true ∧ (s.status.done = true ∨ s.status.err = true) := by
  simp [State.irq]

/-- Settles O22: IRQ by its definition, and the writes and INIT by what they leave of IRQ_EN, DONE and ERR. -/
theorem interruptOutput : Obligations.InterruptOutput := by
  refine ⟨irq_eq_true_iff, fun _ => rfl, fun s d hs => ?_, fun s hb hen => ?_, fun s hs => ?_⟩
  · exact ⟨_, hostAccess_wr s .ctrl d hs (by decide), rfl⟩
  · refine ⟨_, evaluate_idle doInit s hb, ?_⟩
    simp [irq_eq_true_iff, hen]
  · refine ⟨_, hostAccess_wr s .status 0x6#32 hs (by decide), ?_⟩
    simp [State.irq, writeReg, Status.writeOneToClear]

end Sys2Proof.Machine

/-! The data memory and the host's side of it (20_memory.md): byte lanes, where a launch and a host's access stop, what
a host's store, load, clean and invalidation do, what may change a byte of memory, and what PROCESS.RAW leaves there. -/

namespace Sys2Proof.Machine

/-! ### R66: byte lanes -/

theorem lanesOfWord_getD (w : Word) (k : Nat) (hk : k < 4) :
    (lanesOfWord w).getD k 0#8 = w.extractLsb' (8 * k) 8 := by
  interval_cases k <;> rfl

/-- Settles O4: lane k is the word's eight bits from bit 8k on. -/
theorem byteLanesLittleEndian : Obligations.ByteLanesLittleEndian := by
  refine fun w => ⟨wordOfLanes_lanesOfWord w, fun k b hk hb => ?_⟩
  rw [lanesOfWord_getD w k hk, BitVec.getLsbD_extractLsb']
  simp [hb]

/-! ### R73, R85: where a launch stops -/

theorem launchOverDevice_iff (s : State) : s.launchOverDevice = true ↔
    s.platform.overDevice s.srcRange = true ∨ s.platform.overDevice s.dstRange = true := by
  simp [State.launchOverDevice]

theorem launchUncleaned_iff (s : State) : s.launchUncleaned = true ↔
    s.platform.hostCoherent = false ∧ ∃ a ∈ s.dirty, s.srcRange.holds a = true := by
  simp [State.launchUncleaned]

section launch
variable {s : State} (m : Mode)

theorem launch_overDevice (hd : s.launchOverDevice = true) : launch m s = .refused .bufferOverDevice := by
  simp [launch, hd]

theorem launch_uncleaned (hd : s.launchOverDevice = false) (hu : s.launchUncleaned = true) :
    launch m s = .refused .sourceNotCleaned := by
  simp [launch, hd, hu]

theorem launch_accepts (hd : s.launchOverDevice = false) (hu : s.launchUncleaned = false) :
    launch m s = .next (s.accept m) := by
  simp [launch, hd, hu]

/-- A PROCESS that passes every check is a launch, with the previous result cleared. -/
theorem exec_eq_launch (hb : s.busy = false) (hi : s.status.initDone = true) (hp : s.parameterError = none) :
    exec m.instr s = launch m s.clearResult := by
  rw [exec_instr, evaluate_idle _ _ hb]
  simp [doProcess, hi, hp]

/-- A PROCESS that is not a launch answers a state. -/
theorem exec_next_of_not_launch (h : ¬(s.busy = false ∧ s.status.initDone = true ∧ s.parameterError = none)) :
    ∃ t, exec m.instr s = .next t := by
  rw [exec_instr]
  cases hb : s.busy with
  | true => exact ⟨_, evaluate_busy _ _ hb⟩
  | false =>
    rw [evaluate_idle _ _ hb]
    cases hi : s.status.initDone with
    | false => exact ⟨s.clearResult.raiseError .notInit, by simp [doProcess, hi]⟩
    | true =>
      cases hp : s.parameterError with
      | none => exact absurd ⟨hb, hi, hp⟩ h
      | some c => exact ⟨s.clearResult.raiseError c, by simp [doProcess, hi, hp]⟩

end launch

/-- A command word either answers a state or is a launch. -/
theorem exec_next_or_launch (i : Instr) (s : State) : (∃ t, exec i s = .next t) ∨
    ∃ m : Mode, i = m.instr ∧ s.busy = false ∧ s.status.initDone = true ∧ s.parameterError = none := by
  have hprocess (m : Mode) (hm : i = m.instr) : (∃ t, exec i s = .next t) ∨
      ∃ m : Mode, i = m.instr ∧ s.busy = false ∧ s.status.initDone = true ∧ s.parameterError = none := by
    by_cases hl : s.busy = false ∧ s.status.initDone = true ∧ s.parameterError = none
    · exact .inr ⟨m, hm, hl⟩
    · exact .inl (hm ▸ exec_next_of_not_launch m hl)
  cases i with
  | nop => exact .inl ⟨s, rfl⟩
  | init => exact .inl (by simp only [exec, execInit, evaluate, doInit]; split <;> exact ⟨_, rfl⟩)
  | processRaw => exact hprocess .raw rfl
  | processGray => exact hprocess .gray rfl
  | processEdge => exact hprocess .edge rfl
  | processRsvd =>
    simp only [exec, execProcessRsvd, evaluate, doProcess]
    split
    · exact .inl ⟨_, rfl⟩
    · split <;> exact .inl ⟨_, rfl⟩

/-- Settles O15: only a launch can stop, and a launch does as its two duties have it. -/
theorem launchRefusals : Obligations.LaunchRefusals := by
  refine ⟨fun s i => ?_, fun s m hb hi hp => ⟨fun hd => ?_, fun hsrc hdst hc hu => ?_⟩⟩
  · obtain ⟨t, ht⟩ | ⟨m, rfl, hb, hi, hp⟩ := exec_next_or_launch i s
    · exact ⟨by simp [ht], by simp [ht]⟩
    · rw [exec_eq_launch m hb hi hp]
      cases hd : s.launchOverDevice with
      | true =>
        rw [launch_overDevice m (s := s.clearResult) hd]
        refine ⟨nofun, fun r hr => ?_⟩
        cases hr
        exact ⟨⟨m, rfl⟩, hb, hi, hp, .inl ⟨rfl, (launchOverDevice_iff s).1 hd⟩⟩
      | false =>
        cases hu : s.launchUncleaned with
        | true =>
          rw [launch_uncleaned m (s := s.clearResult) hd hu]
          refine ⟨nofun, fun r hr => ?_⟩
          cases hr
          exact ⟨⟨m, rfl⟩, hb, hi, hp, .inr ⟨rfl, (launchUncleaned_iff s).1 hu⟩⟩
        | false =>
          rw [launch_accepts m (s := s.clearResult) hd hu]
          exact ⟨nofun, nofun⟩
  · rw [exec_eq_launch m hb hi hp]
    exact launch_overDevice m ((launchOverDevice_iff s).2 hd)
  · rw [exec_eq_launch m hb hi hp]
    have hd : s.launchOverDevice = false := by simp [State.launchOverDevice, hsrc, hdst]
    exact launch_uncleaned m hd ((launchUncleaned_iff s).2 ⟨hc, hu⟩)

/-! ### The addresses a running command uses -/

section inFlight
variable {s : State} {c : Snapshot}

theorem inFlight_iff_of_busy (hc : s.engine = .busy c) (a : Nat) :
    s.inFlight a = true ↔ c.srcRange.holds a = true ∨ c.dstRange.holds a = true := by
  simp [State.inFlight, hc]

theorem inFlightDst_of_busy (hc : s.engine = .busy c) (a : Nat) : s.inFlightDst a = c.dstRange.holds a := by
  simp [State.inFlightDst, hc]

theorem inFlightDst_eq_false {a : Nat} (h : ∀ c, s.engine = .busy c → c.dstRange.holds a = false) :
    s.inFlightDst a = false := by
  cases hc : s.engine with
  | idle => simp [State.inFlightDst, hc]
  | busy c => rw [inFlightDst_of_busy hc, h c hc]

end inFlight

/-! ### R72, R226, R282: what may change a byte of memory -/

theorem mem_of_read_fill_ne {m : Memory} {f : Nat → Byte} {as : List Nat} {a : Nat}
    (h : Memory.read (Memory.fill m f as) a ≠ Memory.read m a) : a ∈ as :=
  not_imp_comm.1 (read_fill_out f as m a) h

theorem eq_of_read_write_ne {m : Memory} {a x : Nat} {b : Byte}
    (h : Memory.read (Memory.write m a b) x ≠ Memory.read m x) : x = a :=
  not_imp_comm.1 (read_write_other m a x b) h

/-- A host's access changes a byte only by a store to it, or by a clean or an invalidation of a range that has it,
where the byte was not cleaned. -/
theorem HostEffect.memory_changes {s t : State} {op : HostOp} (h : HostEffect s op t) {a : Nat}
    (hne : Memory.read t.mem a ≠ Memory.read s.mem a) :
    (∃ b bs, op = .mem a (b :: bs)) ∨ (∃ b, op = .store a b) ∨
      (a ∈ s.dirty ∧ ∃ base len, base ≤ a ∧ a < base + len ∧ (op = .clean base len ∨ op = .invalidate base len)) := by
  cases h with
  | answered | polled | nothing | skipped | drawn => exact absurd rfl hne
  | register _ d r => cases r <;> exact absurd rfl hne
  | command _ _ t _ _ ht => rw [commandEffect_frame _ t _ ht] at hne; exact absurd rfl hne
  | stored x b bs =>
    obtain rfl : a = x := eq_of_read_write_ne hne
    exact .inl ⟨b, bs, rfl⟩
  | storedOnly x b =>
    obtain rfl : a = x := eq_of_read_write_ne hne
    exact .inr (.inl ⟨b, rfl⟩)
  | cleaned base len lost _ hl =>
    obtain ⟨hd, hin⟩ := List.mem_filter.1 (hl a (mem_of_read_fill_ne hne))
    obtain ⟨hlo, hhi⟩ := (holds_iff _ a).1 hin
    exact .inr (.inr ⟨hd, base, len, hlo, hhi, .inl rfl⟩)
  | invalidated base len lost _ hl =>
    obtain ⟨hd, hin⟩ := List.mem_filter.1 (hl a (mem_of_read_fill_ne hne)).1
    obtain ⟨hlo, hhi⟩ := (holds_iff _ a).1 hin
    exact .inr (.inr ⟨hd, base, len, hlo, hhi, .inr rfl⟩)

/-- Reset changes a byte only in the DST range of the command it abandons. -/
theorem inFlightDst_of_assertReset_ne {s : State} {a : Nat}
    (hne : Memory.read s.assertReset.mem a ≠ Memory.read s.mem a) : s.inFlightDst a = true := by
  obtain ⟨-, -, -, -, -, hidle, hbusy⟩ := assertReset_rest s
  cases hc : s.engine with
  | idle => rw [(hidle hc).1] at hne; exact absurd rfl hne
  | busy c =>
    rw [(hbusy c hc).1] at hne
    rw [inFlightDst_of_busy hc, ← mem_addressesOf]
    exact mem_of_read_fill_ne hne

/-- Settles O41, agent by agent. -/
theorem memoryChanges : Obligations.MemoryChanges := by
  intro s t a h hne
  cases step_effect s t h with
  | waits | nothingRuns | release => exact absurd rfl hne
  | host op rest t hn hs ht => exact .inr ⟨hn, op, rest, hs, ht.memory_changes hne⟩
  | completes c hn hc =>
    refine .inl ⟨.inl hn, ?_⟩
    rw [inFlightDst_of_busy hc, ← Bool.not_eq_false]
    exact fun hout => hne (completionMem_out _ c a hout)
  | reset hn => exact .inl ⟨.inr hn, inFlightDst_of_assertReset_ne (s := { s with schedule := s.schedule.tail }) hne⟩

/-! ### Where a host's data access stops -/

section dataAccess
variable {s : State} {a : Nat} (body : State → Host.Outcome State Fault Refusal)

theorem dataAccess_outside (h : 2 ^ 32 ≤ a) : dataAccess a body s = .fault .addressOutsideSpace := by
  rw [dataAccess, if_pos (by simpa [Config.addressSpace] using h)]

theorem dataAccess_device (hspace : a < 2 ^ 32) (hdev : s.platform.devices.any (fun d => d.holds a) = true) :
    dataAccess a body s = .refused .deviceAccess := by
  rw [dataAccess, if_neg (by simpa [Config.addressSpace] using hspace), if_pos hdev]

theorem dataAccess_window (hspace : a < 2 ^ 32) (hdev : s.platform.devices.any (fun d => d.holds a) = false)
    (hwin : s.platform.window.holds a = true) :
    dataAccess a body s = if s.inReset then .refused .registerAccessInReset else .next (s.respond .busError) := by
  rw [dataAccess, if_neg (by simpa [Config.addressSpace] using hspace), if_neg (by simp [hdev]), if_pos hwin]

end dataAccess

/-! ### R78 to R80, R85: a host's load and store of ordinary memory -/

section ordinary
variable {s : State} {a : Nat} (hspace : a < 2 ^ 32) (hdev : s.platform.devices.any (fun d => d.holds a) = false)
  (hwin : s.platform.window.holds a = false)
include hspace hdev hwin

theorem load_inFlightDst (hd : s.inFlightDst a = true) : hostAccess (.load a) s =
    .next { s with
      drawCount := s.drawCount + 1
      responses := .data [Config.anyByte s.drawCount a] :: s.responses } := by
  rw [hostAccess, loadByte_ordinary a s hspace hdev hwin, if_pos hd]
  rfl

theorem load_stale (hd : s.inFlightDst a = false) (hc : s.platform.hostCoherent = false) (hs : a ∈ s.stale) :
    hostAccess (.load a) s = .refused .staleRead := by
  simp [hostAccess, loadByte_ordinary a s hspace hdev hwin, hd, hc, hs]

theorem load_current (hd : s.inFlightDst a = false) (hs : s.platform.hostCoherent = true ∨ a ∉ s.stale) :
    hostAccess (.load a) s = .next { s with responses := .data [Memory.read s.mem a] :: s.responses } := by
  have hfresh : ¬(!s.platform.hostCoherent && s.stale.contains a) = true := by
    simpa [or_iff_not_imp_left] using hs
  rw [hostAccess, loadByte_ordinary a s hspace hdev hwin, if_neg (by simp [hd]), if_neg hfresh]
  rfl

end ordinary

/-- Settles O43, from the state a store to ordinary memory leaves. -/
theorem hostStoreTaints : Obligations.HostStoreTaints := by
  intro s a b hspace hdev hwin
  refine ⟨_, storeByte_ordinary false a b s hspace hdev hwin, fun c hc ht => ?_, fun ht => ?_, rfl, rfl,
    read_write_same _ a b, fun x hx => read_write_other _ a x b hx, fun hc => ?_, fun hc => ?_, ?_,
    fun x hx => ⟨?_, ?_⟩⟩
  · show (s.taint || s.inFlight a) = true ↔ _
    rw [ht, Bool.false_or, inFlight_iff_of_busy hc]
  · show (s.taint || s.inFlight a) = true
    rw [ht, Bool.true_or]
  · simp [State.dirtyAfterStore, hc]
  · simp [mem_dirtyAfterStore, hc]
  · simp
  · simp [mem_dirtyAfterStore, hx]
  · simp [hx]

/-- Settles O44: the two answers of a load of a byte that is not stale. -/
theorem hostLoadAnswers : Obligations.HostLoadAnswers := fun _ _ hspace hdev hwin =>
  ⟨fun hout hfresh => load_current hspace hdev hwin (inFlightDst_eq_false hout) hfresh,
    fun _ hc hin => ⟨_, load_inFlightDst hspace hdev hwin ((inFlightDst_of_busy hc _).trans hin)⟩⟩

/-- A load, a store and MEM answer alike wherever their data access does not come to what sets them apart. -/
theorem hostAccess_of_dataAccess {s : State} {a : Nat} (f : State → Host.Outcome State Fault Refusal)
    (h : ∀ t body, t.platform = s.platform → t.inReset = s.inReset → dataAccess a body t = f t) :
    hostAccess (.load a) s = f s ∧ (∀ b, hostAccess (.store a b) s = f s) ∧
      ∀ b bs, hostAccess (.mem a (b :: bs)) s = f { s with script := .mem (a + 1) bs :: s.script } := by
  refine ⟨?_, fun b => ?_, fun b bs => ?_⟩ <;> rw [hostAccess]
  · exact h s _ rfl rfl
  · exact h s _ rfl rfl
  · exact h { s with script := .mem (a + 1) bs :: s.script } _ rfl rfl

/-- Settles O47: each clause is a way for the data access, or for the register access under reset, to stop. -/
theorem hostAccessStops : Obligations.HostAccessStops := by
  refine ⟨fun s a h => ?_, fun s a hspace hdev => ?_, fun s a hspace hdev hwin hout hc hs => ?_, fun s offset hr => ?_,
    fun s a hspace hdev hwin => ⟨fun hr => ?_, fun hr => ?_⟩⟩
  · exact hostAccess_of_dataAccess (fun _ => _) fun t body _ _ => dataAccess_outside body h
  · exact hostAccess_of_dataAccess (fun _ => _) fun t body hp _ => dataAccess_device body hspace (hp ▸ hdev)
  · exact load_stale hspace hdev hwin (inFlightDst_eq_false hout) hc hs
  · exact ⟨fun _ => if_pos hr, fun _ => if_pos hr, fun _ _ _ => if_pos hr⟩
  · refine hostAccess_of_dataAccess (fun _ => _) fun t body hp hin => ?_
    rw [dataAccess_window body hspace (hp ▸ hdev) (hp ▸ hwin), if_pos (hin.trans hr)]
  · refine hostAccess_of_dataAccess (fun t => .next (t.respond .busError)) fun t body hp hin => ?_
    rw [dataAccess_window body hspace (hp ▸ hdev) (hp ▸ hwin), if_neg (by simp [hin, hr])]

/-! ### R85: cache maintenance -/

theorem cleanCache_coherent (r : Range) (s : State) (hc : s.platform.hostCoherent = true) :
    cleanCache r s = .next s := by
  simp [cleanCache, hc]

theorem invalidateCache_coherent (r : Range) (s : State) (hc : s.platform.hostCoherent = true) :
    invalidateCache r s = .next s := by
  simp [invalidateCache, hc]

/-- Settling the uncleaned bytes of a range leaves on record those outside it, and memory but at the lost ones among
them. -/
theorem settleDirty_range (s : State) (r : Range) (lost : List Nat) (hl : ∀ x ∈ lost, x ∈ s.dirty.filter r.holds) :
    (∀ a, a ∈ (s.settleDirty (s.dirty.filter r.holds) lost).dirty ↔ a ∈ s.dirty ∧ ¬r.holds a = true) ∧
    (∀ a, ¬r.holds a = true ∨ a ∉ s.dirty ∨ a ∉ lost →
      Memory.read (s.settleDirty (s.dirty.filter r.holds) lost).mem a = Memory.read s.mem a) := by
  refine ⟨fun a => ?_, fun a ha => read_fill_out _ lost s.mem a fun hlost => ?_⟩
  · rw [settleDirty_dirty, List.mem_filter]
    exact and_congr_right fun hd => by simp [hd]
  · obtain ⟨hd, hin⟩ := List.mem_filter.1 (hl a hlost)
    obtain hout | hclean | hkept := ha
    · exact hout hin
    · exact hclean hd
    · exact hkept hlost

/-- Settles O46: both settle the range's uncleaned bytes; a clean loses those that are stale too, an invalidation those
the block did not write last. -/
theorem cacheMaintenance : Obligations.CacheMaintenance := by
  refine fun s base len => ⟨fun hc => ⟨cleanCache_coherent _ s hc, invalidateCache_coherent _ s hc⟩,
    fun hc op hop => ?_⟩
  have hrange (a : Nat) : (base ≤ a ∧ a < base + len) ↔ Range.holds ⟨base, len⟩ a = true :=
    (holds_iff ⟨base, len⟩ a).symm
  simp only [hrange]
  obtain rfl | rfl := hop
  · obtain ⟨hdirty, hread⟩ := settleDirty_range s ⟨base, len⟩
      ((s.dirty.filter (Range.holds ⟨base, len⟩)).filter s.stale.contains)
      fun x hx => (List.mem_filter.1 hx).1
    refine ⟨_, cleanCache_notCoherent _ s hc, fun a ha => ((hdirty a).1 ha).2, nofun, fun a hout => ?_,
      fun a hclean => hread a (.inr (.inl hclean)), fun _ => ⟨fun a hfresh => ?_, ?_⟩, nofun,
      rfl, rfl, rfl, rfl, rfl, rfl, rfl, rfl⟩
    · exact ⟨(hdirty a).trans (and_iff_left hout), Iff.rfl, hread a (.inl hout)⟩
    · exact hread a (.inr (.inr fun hlost => by simp [hfresh] at hlost))
    · simp [← and_assoc, hrange]
  · obtain ⟨hdirty, hread⟩ := settleDirty_range s ⟨base, len⟩
      ((s.dirty.filter (Range.holds ⟨base, len⟩)).filter fun a => !s.blockWroteLast a)
      fun x hx => (List.mem_filter.1 hx).1
    refine ⟨_, invalidateCache_notCoherent _ s hc, fun a ha => ((hdirty a).1 ha).2, fun _ a ha => ?_,
      fun a hout => ?_, fun a hclean => hread a (.inr (.inl hclean)), nofun, fun _ => ⟨rfl, fun a hs hok => ?_⟩,
      rfl, rfl, rfl, rfl, rfl, rfl, rfl, rfl⟩
    · simpa using (List.mem_filter.1 ha).2
    · exact ⟨(hdirty a).trans (and_iff_left hout), by simp [hout], hread a (.inl hout)⟩
    · exact hread a (.inr (.inr fun hlost => by simp [State.blockWroteLast, hs, hok] at hlost))

/-! ### R78: what a host reads after completion -/

theorem meets_of_holds {r q : Range} {a : Nat} (hr : r.holds a = true) (hq : q.holds a = true) :
    r.meets q = true := by
  rw [holds_iff] at hr hq
  simp only [Range.meets, Bool.and_eq_true, decide_eq_true_eq]
  omega

/-- A range over no device holds ordinary addresses only (R73). -/
theorem ordinary_of_overDevice_eq_false {p : Platform} {r : Range} {a : Nat} (hp : p.overDevice r = false)
    (ha : r.holds a = true) : p.devices.any (fun d => d.holds a) = false ∧ p.window.holds a = false := by
  obtain ⟨hwin, hdev⟩ := Bool.or_eq_false_iff.1 hp
  refine ⟨List.any_eq_false.2 fun d hd hda => ?_, ?_⟩
  · exact List.any_eq_false.1 hdev d hd (meets_of_holds ha hda)
  · rw [← Bool.not_eq_true]
    exact fun hw => by simp [meets_of_holds ha hw] at hwin

theorem dst_ordinary {c : Snapshot} {p : Platform} {a : Nat} (hv : c.Valid p) (ha : c.dstRange.holds a = true) :
    a < 2 ^ 32 ∧ p.devices.any (fun d => d.holds a) = false ∧ p.window.holds a = false := by
  have hdst : p.overDevice c.dstRange = false := by
    obtain ⟨-, -, -, -, -, -, -, -, hdst, -⟩ := hv
    exact hdst
  exact ⟨dst_in_space c p hv a ((mem_addressesOf _ a).2 ha), ordinary_of_overDevice_eq_false hdst ha⟩

theorem complete_done {s : State} {c : Snapshot} (hok : c.accessible s.platform = true) :
    (s.complete c).status = s.status.succeed := by
  rw [complete_status, completionStatus, if_pos hok]

/-- Invalidating a stale byte inside MEM_OK leaves it stale no more and memory there as the block wrote it. -/
theorem invalidateCache_blockWroteLast {s : State} {r : Range} {a : Nat} (hc : s.platform.hostCoherent = false)
    (hr : r.holds a = true) (hs : a ∈ s.stale) (hok : s.platform.memOkAt a = true) : ∃ u : State,
    invalidateCache r s = .next u ∧ u.platform = s.platform ∧ u.engine = s.engine ∧ u.status = s.status ∧
      a ∉ u.stale ∧ Memory.read u.mem a = Memory.read s.mem a := by
  refine ⟨_, invalidateCache_notCoherent r s hc, rfl, rfl, rfl, by simp [hr], read_fill_out _ _ _ _ fun hlost => ?_⟩
  simp [State.blockWroteLast, hs, hok] at hlost

/-- Settles O60: after completion a DST byte holds the result, and is stale until it is invalidated, which keeps what
the block wrote. -/
theorem completedBytesAreRead : Obligations.CompletedBytesAreRead := by
  intro s c a hc hv ht hok ha
  obtain ⟨hspace, hdev, hwin⟩ := dst_ordinary hv ha
  have hresult : Memory.read (s.complete c).mem a = c.resultAt a := completionMem_result s c a ht hok ha
  refine ⟨s.complete c, by simp [engineStep, hc], busy_complete s c, by rw [complete_done hok]; rfl,
    fun hco => ?_, fun hco => ?_⟩
  · rw [← hresult]
    exact load_current hspace hdev hwin rfl (.inl hco)
  · have hstale : a ∈ (s.complete c).stale := (mem_markStale s c.dstRange a).2 (.inr ⟨hco, ha⟩)
    refine ⟨load_stale hspace hdev hwin rfl hco hstale, fun base len hlo hhi => ?_⟩
    obtain ⟨u, hu, hp, he, hst, hfresh, hread⟩ := invalidateCache_blockWroteLast (s := s.complete c) hco
      ((holds_iff ⟨base, len⟩ a).2 ⟨hlo, hhi⟩) hstale ((accessible_iff c _).1 hok a (.inr ha))
    refine ⟨u, hu, he, hst, ?_⟩
    rw [← hresult, ← hread]
    exact load_current hspace (hp ▸ hdev) (hp ▸ hwin) (by simp [State.inFlightDst, he]) (.inr hfresh)

/-! ### R219 to R223: a launched frame, in any mode, and PROCESS.RAW -/

theorem dstRange_eq (s : State) : s.dstRange = ⟨s.dstAddr.toNat, 3 * s.width.toNat * s.height.toNat⟩ := by
  rw [State.dstRange, dstLength_eq]

/-- Every VU pair of an even frame lies inside the VU plane (R162). -/
theorem uvIndex_succ_lt {w h i j : Nat} (hw : w % 2 = 0) (hh : h % 2 = 0) (hi : i < w) (hj : j < h) :
    uvIndex w i j + 1 < w * h / 2 := by
  obtain ⟨q, rfl⟩ : ∃ q, h = 2 * q := ⟨h / 2, by omega⟩
  have hplane : w * (2 * q) / 2 = q * w := by rw [Nat.mul_left_comm, Nat.mul_div_cancel_left _ (by omega), Nat.mul_comm]
  have hrow : (j / 2 + 1) * w ≤ q * w := Nat.mul_le_mul_right w (by omega)
  rw [hplane, uvIndex]
  rw [Nat.add_one_mul] at hrow
  omega

section frame
variable {s : State} (h : s.Launchable)
include h

theorem exec_launchable (m : Mode) : exec m.instr s = .next (s.clearResult.accept m) := by
  obtain ⟨hd, hu⟩ := launchable_duties s h
  rw [exec_eq_launch m h.idle h.initialized (launchable_parameterError s h)]
  exact launch_accepts m hd hu

theorem srcRange_eq : s.srcRange = ⟨s.srcAddr.toNat, 3 * s.width.toNat * s.height.toNat / 2⟩ := by
  rw [State.srcRange, srcLength_eq _ _ h.widthOk.2.2]

theorem snapshot_accessible (hacc : s.Accessible) (m : Mode) : (s.snapshot m).accessible s.platform = true := by
  have hsrc : (s.snapshot m).srcRange = ⟨s.srcAddr.toNat, 3 * s.width.toNat * s.height.toNat / 2⟩ := srcRange_eq h
  have hdst : (s.snapshot m).dstRange = ⟨s.dstAddr.toNat, 3 * s.width.toNat * s.height.toNat⟩ := dstRange_eq s
  simpa [Snapshot.accessible, addressesOf, hsrc, hdst] using hacc

/-- A launched frame over accessible memory completes with DONE and leaves its result, and nothing else, in memory. -/
theorem process_completes (hacc : s.Accessible) (m : Mode) : ∃ t u : State,
    exec m.instr s = .next t ∧ engineStep t = .next u ∧ u.busy = false ∧ u.status.done = true ∧ u.status.err = false ∧
    (∀ k, k < 3 * s.width.toNat * s.height.toNat → Memory.read u.mem (s.dstAddr.toNat + k) =
      outByte m (Memory.readRange s.mem s.srcRange) s.width.toNat s.height.toNat k) ∧
    (∀ a, a < s.dstAddr.toNat ∨ s.dstAddr.toNat + 3 * s.width.toNat * s.height.toNat ≤ a →
      Memory.read u.mem a = Memory.read s.mem a) := by
  have hok := snapshot_accessible h hacc m
  have hst : ((s.clearResult.accept m).complete (s.snapshot m)).status = s.status.clearResult.succeed :=
    complete_done hok
  refine ⟨_, (s.clearResult.accept m).complete (s.snapshot m), exec_launchable h m, rfl, rfl, by rw [hst]; rfl,
    by rw [hst]; rfl, fun k hk => ?_, fun a ha => ?_⟩
  · have hin : (s.snapshot m).dstRange.holds (s.dstAddr.toNat + k) = true := by
      show s.dstRange.holds _ = true
      rw [dstRange_eq, holds_iff]
      exact ⟨Nat.le_add_right _ _, Nat.add_lt_add_left hk _⟩
    refine (completionMem_result (s.clearResult.accept m) (s.snapshot m) _ rfl hok hin).trans ?_
    simp [Snapshot.resultAt, State.snapshot]
  · refine completionMem_out (s.clearResult.accept m) (s.snapshot m) a ?_
    show s.dstRange.holds a = false
    rw [dstRange_eq, holds_eq_false_iff]
    exact ha

/-- The three samples of a pixel lie inside the SRC range (R161, R162). -/
theorem sample_index_lt {i j : Nat} (hi : i < s.width.toNat) (hj : j < s.height.toNat) :
    j * s.width.toNat + i < s.srcRange.size ∧
    s.width.toNat * s.height.toNat + uvIndex s.width.toNat i j + 1 < s.srcRange.size := by
  have huv := uvIndex_succ_lt h.widthOk.2.2 h.heightOk.2.2 hi hj
  have hrow : (j + 1) * s.width.toNat ≤ s.height.toNat * s.width.toNat := Nat.mul_le_mul_right _ hj
  rw [Nat.add_one_mul, Nat.mul_comm s.height.toNat] at hrow
  simp only [State.srcRange, srcLength]
  omega

/-- A pixel is converted from the bytes memory holds for it, V before U (R161, R162). -/
theorem rgbFrame_snapshot {i j : Nat} (hi : i < s.width.toNat) (hj : j < s.height.toNat) :
    let S := fun k : Nat => (Memory.read s.mem (s.srcAddr.toNat + k)).toNat
    rgbFrame (Memory.readRange s.mem s.srcRange) s.width.toNat s.height.toNat i j =
      convertPixel (S (j * s.width.toNat + i))
        (S (s.width.toNat * s.height.toNat + j / 2 * s.width.toNat + 2 * (i / 2) + 1))
        (S (s.width.toNat * s.height.toNat + j / 2 * s.width.toNat + 2 * (i / 2))) := by
  obtain ⟨hy, huv⟩ := sample_index_lt h hi hj
  have hindex : s.width.toNat * s.height.toNat + j / 2 * s.width.toNat + 2 * (i / 2) =
      s.width.toNat * s.height.toNat + uvIndex s.width.toNat i j := by rw [uvIndex]; omega
  simp only [hindex, rgbFrame, lumaSample, uSample, vSample]
  rw [sample_readRange _ _ _ hy, sample_readRange _ _ _ huv, sample_readRange _ _ _ (Nat.lt_of_succ_lt huv)]
  rfl

end frame

/-- Settles O24: a byte of the result is a channel of its pixel's conversion. -/
theorem rawCommandConvertsFrame : Obligations.RawCommandConvertsFrame := by
  intro s h hacc W H S
  obtain ⟨t, u, ht, hu, hb, hdone, herr, hres, hout⟩ := process_completes h hacc .raw
  refine ⟨t, u, ht, hu, hb, hdone, herr, fun i j hi hj => ?_, hout⟩
  have hchannel (c : Nat) (hc : c < 3) : (Memory.read u.mem (s.dstAddr.toNat + 3 * (j * W + i) + c)).toNat =
      (rgbFrame (Memory.readRange s.mem s.srcRange) W H i j).channel c := by
    rw [Nat.add_assoc, hres _ (index_lt W H i j c hi hj hc)]
    exact outByte_raw _ W H i j c hi hc
  rw [rgbFrame_snapshot h hi hj] at hchannel
  exact ⟨hchannel 0 (by decide), hchannel 1 (by decide), hchannel 2 (by decide)⟩

end Sys2Proof.Machine

/-! The command words and the steps that carry them (30_encoding.md): decoder and encoder agree, which words are
illegal, a CMD write evaluated inside its own step, and the script statements MEM and POLL. -/

namespace Sys2Proof.Machine

/-! ### R105, R106: the decoder and the encoder -/

theorem decodeFields_fields (i : Instr) : decodeFields i.fields = .ok i := by cases i <;> rfl

theorem decode_encode (i : Instr) : decode (encode i) = .ok i := by
  rw [encode, decode_lanesOfWord, decodeWord, encodeWord, unpack_pack, decodeFields_fields]

/-- Bytes that decode to a command are the four lanes of a word. -/
theorem wordOfLanes_of_decode {lanes : List Byte} {i : Instr} (h : decode lanes = .ok i) :
    ∃ w, wordOfLanes lanes = some w := by
  cases hw : wordOfLanes lanes with
  | none => rw [decode, hw] at h; cases h
  | some w => exact ⟨w, rfl⟩

/-- Settles O2: bytes that decode are a word's lanes, and a word's fields decide its command. -/
theorem decodeIffEncode : Obligations.DecodeIffEncode := by
  refine fun lanes i => ⟨fun h => ?_, fun h => h ▸ decode_encode i⟩
  obtain ⟨w, hw⟩ := wordOfLanes_of_decode h
  obtain rfl := lanesOfWord_of_wordOfLanes lanes w hw
  exact lanesOfWord_eq_encode w i (by rw [h]; rfl)

/-- Settles O1: each word's lanes are what the encoder gives for its command. -/
theorem legalWordsDecode : Obligations.LegalWordsDecode :=
  ⟨decode_encode .nop, decode_encode .init, decode_encode .processRaw, decode_encode .processGray,
    decode_encode .processEdge, decode_encode .processRsvd⟩

/-- A named OP is NOP, INIT or PROCESS; every other is reserved (R102). -/
theorem op_cases (op : BitVec 4) : op = 0#4 ∨ op = 1#4 ∨ op = 2#4 ∨ 3 ≤ op.toNat := by bv_omega

/-- PROCESS decodes whatever its MODE (R103, R107). -/
theorem decodeFields_process (mode : BitVec 2) : ∃ i, decodeFields ⟨2#4, mode, 0#26⟩ = .ok i := by
  obtain rfl | rfl | rfl | rfl : mode = 0#2 ∨ mode = 1#2 ∨ mode = 2#2 ∨ mode = 3#2 := by bv_omega
  · exact ⟨.processRaw, rfl⟩
  · exact ⟨.processGray, rfl⟩
  · exact ⟨.processEdge, rfl⟩
  · exact ⟨.processRsvd, rfl⟩

/-- R106 on the fields of a word: RSVD is looked at first, then OP, and MODE where OP is NOP or INIT. -/
theorem decodeFields_error_iff (f : CommandFields) : (∃ r, decodeFields f = .error r) ↔
    (f.rsvd ≠ 0#26 ∨ 3 ≤ f.op.toNat ∨ (f.op.toNat ≤ 1 ∧ f.mode ≠ 0#2)) := by
  obtain ⟨op, mode, rsvd⟩ := f
  by_cases hr : rsvd = 0#26
  · subst hr
    obtain rfl | rfl | rfl | hop := op_cases op
    · by_cases hm : mode = 0#2 <;> simp [decodeFields, hm]
    · by_cases hm : mode = 0#2 <;> simp [decodeFields, hm]
    · obtain ⟨i, hi⟩ := decodeFields_process mode
      simp [hi]
    · have hne : op ≠ 0#4 ∧ op ≠ 1#4 ∧ op ≠ 2#4 := by bv_omega
      simp [decodeFields, hne, hop]
  · simp [decodeFields, hr]

/-- Settles O3, from the rule on fields. -/
theorem illegalWordsExactly : Obligations.IllegalWordsExactly := fun w => by
  rw [decode_lanesOfWord]
  exact decodeFields_error_iff (unpackFields w)

/-! ### R106, R137: a CMD write -/

theorem commandWrite_of_decode_ok {lanes : List Byte} {i : Instr} (s : State) (h : decode lanes = .ok i) :
    commandWrite lanes s = exec i s := by
  rw [commandWrite, h]

theorem commandWrite_of_decode_error {lanes : List Byte} {r : DecodeReject} (s : State)
    (h : decode lanes = .error r) : commandWrite lanes s = evaluateIllegal s := by
  rw [commandWrite, h]

/-- Settles O7: the previous result is cleared, and ILLEGAL_CMD raised. -/
theorem illegalCommandFails : Obligations.IllegalCommandFails := fun s _ _ hb hd => by
  rw [commandWrite_of_decode_error s hd, evaluateIllegal, evaluate_idle _ s hb]
  rfl

/-- A write of a command's bytes to CMD evaluates the command, the write answered first. -/
theorem hostAccess_write_cmd {lanes : List Byte} {i : Instr} (s : State) (hs : s.inReset = false)
    (hd : decode lanes = .ok i) :
    hostAccess (.write Reg.cmd.offset lanes) s = exec i (s.respond .okay) := by
  obtain ⟨w, hw⟩ := wordOfLanes_of_decode hd
  simp only [hostAccess, registerWrite, hs, Bool.false_eq_true, if_false, offsetAligned_offset, hw, commitWrite,
    regAt_offset, commandWrite_of_decode_ok _ hd]

/-! ### R10, R110: the next statement of the script -/

theorem hostStep_of_script {s : State} {op : HostOp} {rest : List HostOp} (h : s.script = op :: rest) :
    hostStep s = hostAccess op { s with script := rest } := by
  rw [hostStep, h]

theorem step_of_script {s : State} {op : HostOp} {rest : List HostOp} (hn : s.nextAgent = .host)
    (h : s.script = op :: rest) :
    step s = hostAccess op { s with script := rest, schedule := s.schedule.tail } := by
  rw [step, hn, agentStep]
  exact hostStep_of_script (s := { s with schedule := s.schedule.tail }) h

/-- A CMD write of a command's bytes, next in the script, runs the command in its own step (R137, R293). -/
theorem step_write_cmd {s : State} {lanes : List Byte} {i : Instr} {rest : List HostOp} (hs : s.inReset = false)
    (hn : s.nextAgent = .host) (hscript : s.script = .write Reg.cmd.offset lanes :: rest)
    (hd : decode lanes = .ok i) :
    step s = exec i
      { s with script := rest, schedule := s.schedule.tail, responses := .okay :: s.responses } := by
  rw [step_of_script hn hscript]
  exact hostAccess_write_cmd _ hs hd

/-- A word is the opcode-table word of its own 32 bits. -/
theorem tableWord_toNat (w : Word) : tableWord 32 w.toNat = w := by
  rw [tableWord, Nat.mod_eq_of_lt w.isLt, BitVec.ofNat_toNat, BitVec.setWidth_eq]

/-- Settles O5: `withFetchWord` places just such a write. -/
theorem stepRunsDecodedCommand : Obligations.StepRunsDecodedCommand := by
  refine ⟨fun _ _ _ _ hs hn hscript hd => step_write_cmd hs hn hscript hd, fun s w i hd => ?_⟩
  rw [State.withFetchWord, tableWord_toNat]
  exact step_write_cmd (s := s.withAccess (.wr .cmd w)) rfl rfl rfl hd

/-- A register's value does not hang on the script. -/
theorem readReg_script (s : State) (rest : List HostOp) (r : Reg) :
    readReg { s with script := rest } r = readReg s r := by
  cases r <;> rfl

/-- Settles O23: one read, and the statement put back unless its value came. -/
theorem pollRepeats : Obligations.PollRepeats := fun s r mask value rest hs hscript => by
  rw [hostStep_of_script hscript, hostAccess, pollRegister, if_neg (by simp [hs]), readReg_script]
  by_cases hv : readReg s r &&& mask = value
  · simp only [if_pos hv]
    rfl
  · simp only [if_neg hv]
    rfl

/-- Settles O45: the store of MEM's first byte, from the state a store to ordinary memory leaves. -/
theorem memStatementStores : Obligations.MemStatementStores := by
  refine ⟨fun s a b bs rest hscript hspace hdev hwin => ?_, fun s a rest hscript => ?_⟩
  · rw [hostStep_of_script hscript, hostAccess]
    refine ⟨_, storeByte_ordinary true a b _ hspace hdev hwin, rfl, rfl, read_write_same _ a b,
      fun x hx => read_write_other _ a x b hx, fun hc => ?_, fun hc => ?_, ?_, fun x hx => ⟨?_, ?_⟩, rfl, rfl⟩
    · simp [State.dirtyAfterStore, hc]
    · simp [mem_dirtyAfterStore, hc]
    · simp
    · simp [mem_dirtyAfterStore, hx]
    · simp [hx]
  · rw [hostStep_of_script hscript, hostAccess]

end Sys2Proof.Machine

/-! The register interface (40_register_interface.md): which accesses are admitted, what each register reads and takes,
the STATUS write, and what no register access but a CMD write can reach. -/

namespace Sys2Proof.Machine

/-! ### R130, R131: which accesses are admitted -/

theorem offsetAligned_iff (offset : BitVec 6) : offsetAligned offset = true ↔ offset.toNat % 4 = 0 := by
  rw [offsetAligned, beq_iff_eq, ← BitVec.toNat_inj]
  simp

/-- The slots 0x24 to 0x3C are admitted offsets with no register (R38). -/
theorem aligned_noReg_of_reserved {offset : BitVec 6}
    (h : offset ∈ [0x24#6, 0x28#6, 0x2C#6, 0x30#6, 0x34#6, 0x38#6, 0x3C#6]) :
    offsetAligned offset = true ∧ regAt offset = none := by
  revert offset
  decide

section access
variable {s : State} (hs : s.inReset = false)
include hs

theorem hostAccess_rd (r : Reg) :
    hostAccess (.rd r) s = .next (s.respond (.data (lanesOfWord (readReg s r)))) := by
  simp [hostAccess, HostOp.rd, registerRead, hs, readSlot]

variable (offset : BitVec 6)

theorem hostAccess_write_notAdmitted (lanes : List Byte)
    (h : offsetAligned offset = false ∨ wordOfLanes lanes = none) :
    hostAccess (.write offset lanes) s = .next (s.respond .busError) := by
  rw [hostAccess, registerWrite, if_neg (by simp [hs])]
  obtain h | h := h
  · rw [h]
  · cases offsetAligned offset <;> rw [h]

theorem hostAccess_read_notAdmitted (size : AccessSize) (h : offsetAligned offset = false ∨ size ≠ .word) :
    hostAccess (.read offset size) s = .next (s.respond .busError) := by
  rw [hostAccess, registerRead, if_neg (by simp [hs]), if_neg]
  obtain h | h := h <;> simp [h]

theorem hostAccess_write_reserved (d : Word) (ha : offsetAligned offset = true) (hr : regAt offset = none) :
    hostAccess (.write offset (lanesOfWord d)) s = .next (s.respond .okay) := by
  simp only [hostAccess, registerWrite, hs, Bool.false_eq_true, if_false, ha, wordOfLanes_lanesOfWord, commitWrite, hr]

theorem hostAccess_read_reserved (ha : offsetAligned offset = true) (hr : regAt offset = none) :
    hostAccess (.read offset .word) s = .next (s.respond (.data (lanesOfWord 0#32))) := by
  simp [hostAccess, registerRead, hs, ha, readSlot, hr]

end access

/-- Settles O20: no other size carries a word, and no other offset is aligned. -/
theorem unadmittedAccessChangesNothing : Obligations.UnadmittedAccessChangesNothing := by
  refine fun s hs => ⟨fun offset lanes h => ?_, fun offset size h => ?_⟩
  · refine hostAccess_write_notAdmitted hs offset lanes ?_
    rw [wordOfLanes_eq_none, ← Bool.not_eq_true, offsetAligned_iff]
    omega
  · refine hostAccess_read_notAdmitted hs offset size ?_
    rwa [← Bool.not_eq_true, offsetAligned_iff]

/-! ### R132 to R145: what a register reads and takes -/

theorem toNat_append_eq_add {n m : Nat} (x : BitVec n) (y : BitVec m) :
    (x ++ y).toNat = x.toNat * 2 ^ m + y.toNat := by
  rw [BitVec.toNat_append, ← Nat.shiftLeft_add_eq_or_of_lt y.isLt, Nat.shiftLeft_eq]

/-- R138: STATUS as the sum of its bits at their places. -/
theorem statusWord_toNat (s : State) : (statusWord s).toNat =
    s.busy.toNat + 2 * s.status.done.toNat + 4 * s.status.err.toNat + 8 * s.status.reject.toNat +
      256 * s.status.errCode.code.toNat + 65536 * s.status.initDone.toNat := by
  simp only [statusWord, toNat_append_eq_add, BitVec.toNat_ofBool, BitVec.toNat_ofNat]
  omega

/-- Settles O17, register by register. -/
theorem registerReads : Obligations.RegisterReads := by
  intro s hs answers
  have hread (r : Reg) (v : Word) (hv : readReg s r = v) : answers r.offset v := hv ▸ hostAccess_rd hs r
  refine ⟨hread .id _ rfl, hread .ctrl _ ?_, hread .cmd _ rfl, hread .status _ ?_, hread .srcAddr _ rfl,
    hread .dstAddr _ rfl, hread .width _ (BitVec.ofNat_toNat ..).symm, hread .height _ (BitVec.ofNat_toNat ..).symm,
    hread .cycles _ rfl, fun offset h => ?_⟩
  · cases hen : s.irqEn <;> simp [readReg, hen]
  · rw [← statusWord_toNat, BitVec.ofNat_toNat, BitVec.setWidth_eq]
    rfl
  · obtain ⟨ha, hr⟩ := aligned_noReg_of_reserved h
    exact hostAccess_read_reserved hs offset ha hr

/-- R142, R143: the 16 low bits are what a dimension register keeps. -/
theorem setWidth_eq_ofNat_mod (d : Word) : d.setWidth 16 = BitVec.ofNat 16 (d.toNat % 65536) := by
  apply BitVec.eq_of_toNat_eq
  simp

/-- Settles O18, register by register. -/
theorem registerWrites : Obligations.RegisterWrites := by
  intro s d hs writes
  have hwrite (r : Reg) (hr : r ≠ .cmd) (t : State)
      (ht : writeReg (s.respond .okay) d r = { t with responses := .okay :: s.responses }) : writes r.offset t :=
    (hostAccess_wr s r d hs hr).trans (congrArg _ ht)
  refine ⟨hwrite .id nofun s rfl, hwrite .ctrl nofun _ rfl, hwrite .srcAddr nofun _ rfl, hwrite .dstAddr nofun _ rfl,
    hwrite .width nofun _ ?_, hwrite .height nofun _ ?_, hwrite .cycles nofun s rfl, fun offset h => ?_⟩
  · rw [← setWidth_eq_ofNat_mod]; rfl
  · rw [← setWidth_eq_ofNat_mod]; rfl
  · obtain ⟨ha, hr⟩ := aligned_noReg_of_reserved h
    exact hostAccess_write_reserved hs offset d ha hr

/-! ### R139: write-1-to-clear -/

theorem and_not_eq_ite (b c : Bool) : (b && !c) = if c then false else b := by cases c <;> simp

theorem writeOneToClear_zero (st : Status) : st.writeOneToClear 0#32 = st := by
  simp [Status.writeOneToClear]

theorem writeOneToClear_allOnes (st : Status) : st.writeOneToClear 0xFFFFFFFF#32 =
    { done := false, err := false, reject := false, errCode := .noError, initDone := st.initDone } := by
  simp [Status.writeOneToClear]

/-- The fields of STATUS do not overlap (R138), so 0x00010304 is ERR with its code, INIT_DONE and nothing else. -/
theorem flags_of_statusWord {s : State} (h : statusWord s = 0x00010304#32) :
    s.busy = false ∧ s.status.done = false ∧ s.status.reject = false ∧ s.status.initDone = true := by
  have hsum := statusWord_toNat s
  rw [h, BitVec.toNat_ofNat] at hsum
  have := s.busy.toNat_le
  have := s.status.done.toNat_le
  have := s.status.err.toNat_le
  have := s.status.reject.toNat_le
  have := s.status.errCode.code.isLt
  have := s.status.initDone.toNat_le
  simp only [← Bool.toNat_eq_zero, ← Bool.toNat_eq_one]
  omega

/-- Settles O19, through the equation of the STATUS write. -/
theorem statusWriteOneToClear : Obligations.StatusWriteOneToClear := by
  refine ⟨fun s d hs => ⟨_, hostAccess_wr s .status d hs nofun, rfl, and_not_eq_ite _ _, and_not_eq_ite _ _, rfl,
    and_not_eq_ite _ _, rfl, rfl, rfl, ?_, ?_⟩, fun s t hs hw ht => ?_⟩
  · rintro rfl; exact writeOneToClear_zero s.status
  · rintro rfl; exact writeOneToClear_allOnes s.status
  · cases (hostAccess_wr s .status 0x4#32 hs nofun).symm.trans ht
    obtain ⟨hbusy, hdone, hreject, hinit⟩ := flags_of_statusWord hw
    apply BitVec.eq_of_toNat_eq
    simp [statusWord_toNat, writeReg, Status.writeOneToClear, hbusy, hdone, hreject, hinit, ErrorCode.code]

/-! ### R146, R288: what a register access cannot reach -/

/-- Settles O21: of all that a host's access can do, a register access but a CMD write answers, rewrites a register or
puts POLL back. -/
theorem registerAccessFrame : Obligations.RegisterAccessFrame := by
  intro s t op hop h
  cases hostAccess_effect op s t h with
  | answered | polled | nothing => exact ⟨rfl, rfl, rfl, rfl, rfl, rfl, rfl, rfl, fun _ => rfl⟩
  | register _ d r => cases r <;> exact ⟨rfl, rfl, rfl, rfl, rfl, rfl, rfl, rfl, fun _ => rfl⟩
  | command offset w _ _ hr => exact absurd (regAt_cmd offset hr) (by simpa using hop)
  | stored | storedOnly | skipped | drawn | cleaned | invalidated => simp at hop

end Sys2Proof.Machine

/-! The colour converter (41_color_convert.md): which VU pair a pixel takes, the range of the three numerators, the
order of clamp and truncation, and neutral chroma. -/

namespace Sys2Proof.Machine

/-! ### R162: the chroma samples -/

/-- Clearing bit 0 of the column rounds it down to the block's left column. -/
theorem uvIndex_eq (w i j : Nat) : uvIndex w i j = j / 2 * w + 2 * (i / 2) := by
  rw [uvIndex]
  omega

theorem uvIndex_blockCorner (w i j : Nat) : uvIndex w (2 * (i / 2)) (2 * (j / 2)) = uvIndex w i j := by
  simp only [uvIndex_eq, Nat.mul_div_cancel_left _ Nat.two_pos]

/-- Settles O51: a VU offset names its pixel's block, and its pair lies inside the VU plane. -/
theorem chromaIndexing : Obligations.ChromaIndexing := fun w _ i j hw hh hi hj =>
  ⟨(uvIndex_blockCorner w i j).symm, uvIndex_eq w i j, Nat.le_sub_one_of_lt (uvIndex_succ_lt hw hh hi hj)⟩

/-! ### R169: the datapath's bounds, each numerator being linear in its bytes -/

theorem redNumerator_bounds {y v : Nat} (hy : y ≤ 255) (hv : v ≤ 255) :
    -221753088 ≤ redNumerator y v ∧ redNumerator y v ≤ 475020642 := by
  rw [redNumerator]
  omega

theorem greenNumerator_bounds {y u v : Nat} (hy : y ≤ 255) (hu : u ≤ 255) (hv : v ≤ 255) :
    -131525518 ≤ greenNumerator y u v ∧ greenNumerator y u v ≤ 387561152 := by
  rw [greenNumerator]
  omega

theorem blueNumerator_bounds {y u : Nat} (hy : y ≤ 255) (hu : u ≤ 255) :
    -221753088 ≤ blueNumerator y u ∧ blueNumerator y u ≤ 475020642 := by
  rw [blueNumerator]
  omega

/-- Settles O48: the bounds channel by channel; the extremes evaluate. -/
theorem converterBounds : Obligations.ConverterBounds := fun _ _ _ hy hu hv =>
  ⟨redNumerator_bounds hy hv, greenNumerator_bounds hy hu hv, blueNumerator_bounds hy hu, rfl, rfl, rfl, rfl⟩

/-! ### R166: clamp and truncation -/

/-- Settles O49 by the three cases of R166: below 0, above 255, and between, where truncation is the floor. -/
theorem clampThenTruncate : Obligations.ClampThenTruncate := by
  intro n
  obtain hneg | hnonneg := Int.lt_or_le n 0
  · rw [clamp8_neg _ (by omega), max_eq_left (by omega)]
    rfl
  obtain htop | hmid := Int.le_total 255000000 n
  · rw [clamp8_top _ (by omega), min_eq_right htop]
    rfl
  · rw [clamp8_mid _ (by omega) (by omega), min_eq_left hmid, max_eq_right hnonneg, Int.tdiv_eq_ediv_of_nonneg hnonneg]
    exact Int.toNat_of_nonneg (by omega)

/-! ### R168: neutral chroma -/

theorem clamp8_natCast {n : Nat} (h : n ≤ 255) : clamp8 n = n := by
  rw [clamp8_mid _ (by omega) (by omega), Int.toNat_natCast]

/-- The chroma terms vanish, so every channel is Y before the clamp. -/
theorem convertPixel_neutral (y : Nat) :
    convertPixel y 128 128 = { r := clamp8 y, g := clamp8 y, b := clamp8 y } := by
  simp [convertPixel, redNumerator, greenNumerator, blueNumerator]

/-- Settles O50: a byte is its own clamp; the two pixels at Y = 0 evaluate. -/
theorem neutralChroma : Obligations.NeutralChroma :=
  ⟨fun y hy => by rw [convertPixel_neutral, clamp8_natCast hy], by decide, by decide⟩

end Sys2Proof.Machine

/-! The luminance reducer (42_luma_reduce.md): PROCESS.GRAY over a frame, and the range of the luma. -/

namespace Sys2Proof.Machine

/-! ### R180, R181: the range of the luma -/

/-- The weights of R180 sum to 1000. -/
theorem luma_gray (v : Nat) : luma { r := v, g := v, b := v } = v := by
  simp only [luma]
  omega

/-- Settles O52: the bound on the sum, which 18 bits hold, and on the luma. -/
theorem lumaRange : Obligations.LumaRange := by
  refine ⟨fun p hr hg hb => ?_, luma_gray⟩
  have hsum : 299 * p.r + 587 * p.g + 114 * p.b ≤ 255000 := by omega
  exact ⟨hsum, hsum.trans_lt (by decide), luma_le p 255 hr hg hb⟩

/-! ### R224, R180, R183: PROCESS.GRAY -/

/-- Settles O25: a byte of the result, in any channel, is the luma of its pixel's conversion. -/
theorem grayCommandReducesFrame : Obligations.GrayCommandReducesFrame := by
  intro s h hacc W H S
  obtain ⟨t, u, ht, hu, hb, hdone, herr, hres, hout⟩ := process_completes h hacc .gray
  refine ⟨t, u, ht, hu, hb, hdone, herr, fun i j c hi hj hc => ?_, hout⟩
  have hluma : (Memory.read u.mem (s.dstAddr.toNat + 3 * (j * W + i) + c)).toNat =
      luma (rgbFrame (Memory.readRange s.mem s.srcRange) W H i j) := by
    rw [Nat.add_assoc, hres _ (index_lt W H i j c hi hj hc)]
    exact outByte_gray _ W H i j c hi hc
  rwa [rgbFrame_snapshot h hi hj] at hluma

end Sys2Proof.Machine

/-! The edge detector (43_edge_detect.md): what the gradients read and how large they are, the rounded root and its
clamp, the border, flat frames and a vertical line, and PROCESS.EDGE over a frame. -/

namespace Sys2Proof.Machine

/-! ### R192, R193: the gradients -/

/-- Neither gradient reads a pixel outside the 3×3 window around its own, nor that pixel itself. -/
theorem gradients_congr {I J : Nat → Nat → Nat} {x y : Nat} (hx : 1 ≤ x) (hy : 1 ≤ y)
    (h : ∀ a b, a ≤ x + 1 → b ≤ y + 1 → ¬(a = x ∧ b = y) → I a b = J a b) :
    gradientX I x y = gradientX J x y ∧ gradientY I x y = gradientY J x y := by
  have hleft (b : Nat) (hb : b ≤ y + 1) : I (x - 1) b = J (x - 1) b := h _ b (by omega) hb (by omega)
  have hright (b : Nat) (hb : b ≤ y + 1) : I (x + 1) b = J (x + 1) b := h _ b le_rfl hb (by omega)
  have habove : I x (y - 1) = J x (y - 1) := h _ _ (by omega) (by omega) (by omega)
  have hbelow : I x (y + 1) = J x (y + 1) := h _ _ (by omega) le_rfl (by omega)
  have hrow : y - 1 ≤ y + 1 := by omega
  constructor
  · rw [gradientX, gradientX, hleft _ hrow, hleft y (by omega), hleft _ le_rfl, hright _ hrow, hright y (by omega),
      hright _ le_rfl]
  · rw [gradientY, gradientY, hleft _ hrow, hleft _ le_rfl, hright _ hrow, hright _ le_rfl, habove, hbelow]

/-- Each gradient adds bytes of total weight 4 and takes away bytes of total weight 4. -/
theorem gradientX_bounds {I : Nat → Nat → Nat} (hI : ∀ a b, I a b ≤ 255) (x y : Nat) :
    -1020 ≤ gradientX I x y ∧ gradientX I x y ≤ 1020 := by
  have hleft := And.intro (hI (x - 1) (y - 1)) (And.intro (hI (x - 1) y) (hI (x - 1) (y + 1)))
  have hright := And.intro (hI (x + 1) (y - 1)) (And.intro (hI (x + 1) y) (hI (x + 1) (y + 1)))
  rw [gradientX]
  omega

/-- Mirrored in the diagonal, a frame has its two gradients exchanged. -/
theorem gradientX_transpose (I : Nat → Nat → Nat) (x y : Nat) :
    gradientX (fun a b => I b a) y x = gradientY I x y := rfl

theorem gradientY_bounds {I : Nat → Nat → Nat} (hI : ∀ a b, I a b ≤ 255) (x y : Nat) :
    -1020 ≤ gradientY I x y ∧ gradientY I x y ≤ 1020 := by
  rw [← gradientX_transpose]
  exact gradientX_bounds (fun a b => hI b a) y x

/-- The two share the corners, up to sign, and read the rest with even weights. -/
theorem gradientX_sub_gradientY_even (I : Nat → Nat → Nat) (x y : Nat) :
    (gradientX I x y - gradientY I x y) % 2 = 0 := by
  rw [gradientX, gradientY]
  omega

/-- Settles O53. -/
theorem gradientBounds : Obligations.GradientBounds := fun I _ x y hI hx hy =>
  ⟨gradientX_bounds hI x y, gradientY_bounds hI x y, gradientX_sub_gradientY_even I x y,
    fun h => gradients_congr hx hy fun a b _ _ hab => h a b hab⟩

theorem gradientSquare_cast (I : Nat → Nat → Nat) (x y : Nat) :
    (gradientSquare I x y : Int) = gradientX I x y * gradientX I x y + gradientY I x y * gradientY I x y :=
  Int.toNat_of_nonneg (add_nonneg (mul_self_nonneg _) (mul_self_nonneg _))

/-! ### R194: the rounded root -/

/-- `k + 1/2` squared, times 4: no multiple of 4, so no root is half way. -/
theorem halfway_square (k : Nat) : (2 * k + 1) * (2 * k + 1) = 4 * (k * k + k) + 1 := by ring

/-- The rounded root exceeds `k` exactly past the square of `k + 1/2`. -/
theorem lt_roundSqrt_iff (k n : Nat) : k < roundSqrt n ↔ k * k + k < n := by
  obtain ⟨hle, hlt⟩ := isqrtIsFloorRoot n
  rw [roundSqrt]
  generalize isqrt n = r at hle hlt ⊢
  obtain hk | rfl | hk := Nat.lt_trichotomy k r
  · have hsquare : (k + 1) * (k + 1) ≤ r * r := Nat.mul_self_le_mul_self hk
    rw [Nat.succ_mul_succ] at hsquare
    exact iff_of_true (by omega) (by omega)
  · split <;> omega
  · have hsquare : (r + 1) * (r + 1) ≤ k * k := Nat.mul_self_le_mul_self hk
    exact iff_of_false (by split <;> omega) (by omega)

/-- A nearest integer to the root is determined by the half way points below the root. -/
theorem nearestRoot_iff (m n : Nat) : NearestRoot m n ↔ ∀ k, k < m ↔ k * k + k < n := by
  have hupper : 4 * n < (2 * m + 1) * (2 * m + 1) ↔ n ≤ m * m + m := by
    rw [halfway_square]
    omega
  have hlower (k : Nat) : (2 * (k + 1) - 1) * (2 * (k + 1) - 1) < 4 * n ↔ k * k + k < n := by
    rw [show 2 * (k + 1) - 1 = 2 * k + 1 from rfl, halfway_square]
    omega
  have hmono {i j : Nat} (hij : i ≤ j) : i * i + i ≤ j * j + j := Nat.add_le_add (Nat.mul_self_le_mul_self hij) hij
  rw [NearestRoot, hupper]
  constructor
  · rintro ⟨hn, hm⟩ k
    refine ⟨fun hk => ?_, fun hk => ?_⟩
    · obtain ⟨j, rfl⟩ : ∃ j, m = j + 1 := ⟨m - 1, by omega⟩
      rw [hlower] at hm
      exact (hmono (Nat.le_of_lt_succ hk)).trans_lt (hm.resolve_left (Nat.succ_ne_zero j))
    · by_contra hmk
      exact absurd (hn.trans (hmono (Nat.le_of_not_lt hmk))) (Nat.not_le.2 hk)
  · intro h
    refine ⟨Nat.le_of_not_lt fun hn => Nat.lt_irrefl m ((h m).2 hn), ?_⟩
    cases m with
    | zero => exact .inl rfl
    | succ j => exact .inr ((hlower j).2 ((h j).1 (Nat.lt_succ_self j)))

theorem nearestRoot_roundSqrt (n : Nat) : NearestRoot (roundSqrt n) n :=
  (nearestRoot_iff _ n).2 fun k => lt_roundSqrt_iff k n

/-- Settles O55: two nearest integers have the same numbers below them. -/
theorem magnitudeIsNearestRoot : Obligations.MagnitudeIsNearestRoot := fun n =>
  ⟨nearestRoot_roundSqrt n, fun m hm => eq_of_forall_lt_iff fun k =>
    ((nearestRoot_iff m n).1 hm k).trans (lt_roundSqrt_iff k n).symm⟩

/-! ### R191, R195: the border and the clamp -/

theorem onBorder_iff (w h x y : Nat) : onBorder w h x y = true ↔ y = 0 ∨ y + 1 = h ∨ x = 0 ∨ x + 1 = w := by
  simp only [onBorder, Bool.or_eq_true, decide_eq_true_eq, or_assoc]

theorem edgeAt_border (I : Nat → Nat → Nat) {w h x y : Nat} (hb : y = 0 ∨ y + 1 = h ∨ x = 0 ∨ x + 1 = w) :
    edgeAt I w h x y = 0 := if_pos ((onBorder_iff w h x y).2 hb)

/-- Settles O57: with two columns or rows, each is a first or a last one. -/
theorem borderIsZero : Obligations.BorderIsZero := fun I _ _ _ _ hx hy =>
  ⟨edgeAt_border I, fun h => edgeAt_border I (by omega)⟩

/-- A pixel of the frame is on the border or has all its neighbours in the frame. -/
theorem border_or_interior {w h x y : Nat} (hx : x < w) (hy : y < h) :
    (y = 0 ∨ y + 1 = h ∨ x = 0 ∨ x + 1 = w) ∨ (1 ≤ x ∧ x + 2 ≤ w ∧ 1 ≤ y ∧ y + 2 ≤ h) := by omega

/-- Where nothing changes, on the border or inside it, there is no edge. -/
theorem edgeAt_of_gradients_zero {I : Nat → Nat → Nat} {x y : Nat} (hgx : gradientX I x y = 0)
    (hgy : gradientY I x y = 0) (w h : Nat) : edgeAt I w h x y = 0 := by
  rw [edgeAt, gradientSquare, hgx, hgy]
  exact ite_self 0

section interior
variable {w h x y : Nat} (hx : 1 ≤ x) (hw : x + 2 ≤ w) (hy : 1 ≤ y) (hh : y + 2 ≤ h)
include hx hw hy hh

theorem edgeAt_interior (I : Nat → Nat → Nat) :
    edgeAt I w h x y = min 255 (roundSqrt (gradientSquare I x y)) :=
  if_neg (by rw [onBorder_iff]; omega)

/-- 64771 is the first integer past the square of 254 and a half. -/
theorem edgeAt_eq_255_iff (I : Nat → Nat → Nat) : edgeAt I w h x y = 255 ↔ 64771 ≤ gradientSquare I x y := by
  rw [edgeAt_interior hx hw hy hh, min_eq_left_iff]
  exact lt_roundSqrt_iff 254 _

theorem gradients_congr_frame {I J : Nat → Nat → Nat} (hIJ : ∀ a b, a < w → b < h → I a b = J a b) :
    gradientX I x y = gradientX J x y ∧ gradientY I x y = gradientY J x y :=
  gradients_congr hx hy fun a b ha hb _ => hIJ a b (by omega) (by omega)

/-- A frame of equal rows has a horizontal gradient only. -/
theorem gradients_of_columns {I : Nat → Nat → Nat} {f : Nat → Nat} (hI : ∀ a b, a < w → b < h → I a b = f a) :
    gradientX I x y = 4 * ((f (x + 1) : Int) - f (x - 1)) ∧ gradientY I x y = 0 := by
  obtain ⟨hgx, hgy⟩ := gradients_congr_frame hx hw hy hh hI
  rw [hgx, hgy, gradientX, gradientY]
  constructor <;> ring

end interior

/-- Settles O56: below the threshold the clamp does nothing. -/
theorem edgeClampThreshold : Obligations.EdgeClampThreshold := by
  intro I w h x y hx hw hy hh
  have hthreshold := edgeAt_eq_255_iff hx hw hy hh I
  refine ⟨hthreshold, fun hlt => ?_⟩
  rw [edgeAt_interior hx hw hy hh] at hthreshold ⊢
  omega

/-- The edge frame depends on the gray values inside the frame alone (R191, R196). -/
theorem edgeAt_congr {I J : Nat → Nat → Nat} {w h x y : Nat} (hIJ : ∀ a b, a < w → b < h → I a b = J a b)
    (hx : x < w) (hy : y < h) : edgeAt I w h x y = edgeAt J w h x y := by
  obtain hb | ⟨hx1, hw, hy1, hh⟩ := border_or_interior hx hy
  · rw [edgeAt_border I hb, edgeAt_border J hb]
  · obtain ⟨hgx, hgy⟩ := gradients_congr_frame hx1 hw hy1 hh hIJ
    rw [edgeAt, edgeAt, gradientSquare, gradientSquare, hgx, hgy]

/-! ### R197: flat frames -/

theorem edgeAt_flat {I : Nat → Nat → Nat} {v w h x y : Nat} (hI : ∀ a b, a < w → b < h → I a b = v)
    (hx : x < w) (hy : y < h) : edgeAt I w h x y = 0 := by
  obtain hb | ⟨hx1, hw, hy1, hh⟩ := border_or_interior hx hy
  · exact edgeAt_border I hb
  · obtain ⟨hgx, hgy⟩ := gradients_of_columns (f := fun _ => v) hx1 hw hy1 hh hI
    rw [sub_self, mul_zero] at hgx
    exact edgeAt_of_gradients_zero hgx hgy w h

theorem sample_le (sm : List Byte) (k : Nat) : sample sm k ≤ 255 := Nat.le_of_lt_succ (sm.getD k 0#8).isLt

/-- A pixel of neutral chroma has the luma its Y sample gives (R168, R181). -/
theorem grayFrame_neutral {sm : List Byte} {w h i j : Nat} (hu : uSample sm w h i j = 128)
    (hv : vSample sm w h i j = 128) : grayFrame sm w h i j = lumaSample sm w i j := by
  rw [grayFrame, rgbFrame, hu, hv, convertPixel_neutral, luma_gray]
  exact clamp8_natCast (sample_le sm _)

/-- The Y sample of a pixel of the frame is in the Y plane (R161). -/
theorem lumaIndex_lt {w h i j : Nat} (hi : i < w) (hj : j < h) : j * w + i < w * h := by
  have hbyte := index_lt w h i j 0 hi hj (by decide)
  rw [Nat.mul_assoc] at hbyte
  omega

/-- Settles O58: every pixel's three samples are in their planes. -/
theorem flatFrameHasNoEdges : Obligations.FlatFrameHasNoEdges := by
  refine ⟨fun I v w h x y hI hx hy => edgeAt_flat hI hx hy, fun sm v w h x y hw hh _ hY hUV hx hy => ?_⟩
  have hgray (i j : Nat) (hi : i < w) (hj : j < h) : grayFrame sm w h i j = v := by
    have hpair : w * h + uvIndex w i j + 1 < 3 * w * h / 2 := by
      rw [← srcLength_eq w h hw, srcLength, Nat.add_assoc]
      exact Nat.add_lt_add_left (uvIndex_succ_lt hw hh hi hj) _
    rw [grayFrame_neutral (hUV _ (by omega) hpair) (hUV _ (by omega) (by omega))]
    exact hY _ (lumaIndex_lt hi hj)
  exact ⟨hgray x y hx hy, edgeAt_flat hgray hx hy⟩

/-! ### R199: a vertical line -/

/-- Settles O59: only the two columns beside the line have it on one side and not on the other. -/
theorem verticalLine : Obligations.VerticalLine := by
  intro I w h c x y hc hcw hI hx hy
  obtain hb | ⟨hx1, hw, hy1, hh⟩ := border_or_interior hx hy
  · refine ⟨?_, fun _ _ _ _ => by omega⟩
    rw [edgeAt_border I hb, if_neg (by omega)]
  obtain ⟨hgx, hgy⟩ := gradients_of_columns (f := fun a => if a = c then 255 else 0) hx1 hw hy1 hh hI
  by_cases hbeside : x + 1 = c ∨ x = c + 1
  · have habs : (gradientX I x y).natAbs = 1020 := by
      rw [hgx]
      obtain rfl | rfl := hbeside
      · rw [if_pos rfl, if_neg (by omega)]; rfl
      · rw [if_neg (by omega), if_pos (by omega)]; rfl
    have hedge : edgeAt I w h x y = 255 := by
      rw [edgeAt_eq_255_iff hx1 hw hy1 hh, gradientSquare, hgy, ← Int.natAbs_mul_self' (gradientX I x y), habs]
      decide
    exact ⟨by rw [hedge, if_pos ⟨hbeside, hy1, hh⟩], fun _ _ _ _ => ⟨fun _ => ⟨habs, hgy⟩, (absurd hbeside ·)⟩⟩
  · have hzero : gradientX I x y = 0 := by
      rw [hgx, if_neg (by omega), if_neg (by omega)]
      rfl
    have hedge : edgeAt I w h x y = 0 := edgeAt_of_gradients_zero hzero hgy w h
    exact ⟨by rw [hedge, if_neg (hbeside ·.1)], fun _ _ _ _ => ⟨(absurd · hbeside), fun _ => hzero⟩⟩

/-! ### R225, R196: PROCESS.EDGE -/

/-- The luma frame of the bytes memory holds from SRC_ADDR on, at the registers' dimensions (R161, R162, R182). -/
def State.lumaFrame (s : State) (i j : Nat) : Nat :=
  let W := s.width.toNat
  let H := s.height.toNat
  let S := fun k : Nat => (Memory.read s.mem (s.srcAddr.toNat + k)).toNat
  luma (convertPixel (S (j * W + i)) (S (W * H + j / 2 * W + 2 * (i / 2) + 1)) (S (W * H + j / 2 * W + 2 * (i / 2))))

/-- Inside the frame it is the gray frame of the snapshot. -/
theorem grayFrame_snapshot {s : State} (h : s.Launchable) (i j : Nat) (hi : i < s.width.toNat)
    (hj : j < s.height.toNat) :
    grayFrame (Memory.readRange s.mem s.srcRange) s.width.toNat s.height.toNat i j = s.lumaFrame i j :=
  congrArg luma (rgbFrame_snapshot h hi hj)

/-- Settles O26: a byte of the result, in any channel, is its pixel's edge value in the luma frame. -/
theorem edgeCommandDetectsEdges : Obligations.EdgeCommandDetectsEdges := by
  intro s h hacc W H S I
  obtain ⟨t, u, ht, hu, hb, hdone, herr, hres, hout⟩ := process_completes h hacc .edge
  have hedge (x y c : Nat) (hx : x < W) (hy : y < H) (hc : c < 3) :
      (Memory.read u.mem (s.dstAddr.toNat + 3 * (y * W + x) + c)).toNat = edgeAt s.lumaFrame W H x y := by
    rw [Nat.add_assoc, hres _ (index_lt W H x y c hx hy hc)]
    exact (outByte_edge _ W H x y c hx hc).trans (edgeAt_congr (grayFrame_snapshot h) hx hy)
  refine ⟨t, u, ht, hu, hb, hdone, herr, fun x y c hx hy hc hborder => ?_, fun x y c hx hy hc => ?_, hout⟩
  · refine BitVec.eq_of_toNat_eq ?_
    rw [hedge x y c hx hy hc, edgeAt_border _ (by omega)]
    rfl
  · refine ⟨gradientSquare s.lumaFrame (x + 1) (y + 1), _, gradientSquare_cast _ _ _, nearestRoot_roundSqrt _, ?_⟩
    rw [hedge (x + 1) (y + 1) c (by omega) (by omega) hc]
    exact edgeAt_interior (by omega) (by omega) (by omega) (by omega) _

end Sys2Proof.Machine

/-! The orchestrator (44_orchestrator.md): what becomes of a command word while BUSY and while idle, the checks of
PROCESS in order, acceptance, and what a completion writes and leaves alone. -/

namespace Sys2Proof.Machine

/-! ### R210 to R212: the entry of a command word -/

/-- Every command but NOP and INIT is a PROCESS form; `none` is the reserved MODE 3. -/
theorem exec_eq_doProcess {i : Instr} (hn : i ≠ .nop) (hi : i ≠ .init) :
    ∃ m : Option Mode, ∀ s, exec i s = evaluate (doProcess m) s := by
  cases i with
  | nop => exact absurd rfl hn
  | init => exact absurd rfl hi
  | processRaw => exact ⟨some .raw, fun _ => rfl⟩
  | processGray => exact ⟨some .gray, fun _ => rfl⟩
  | processEdge => exact ⟨some .edge, fun _ => rfl⟩
  | processRsvd => exact ⟨none, fun _ => rfl⟩

/-- Every command but NOP goes through the entry of R210 and R212. -/
theorem exec_eq_evaluate {i : Instr} (hn : i ≠ .nop) : ∃ body, ∀ s, exec i s = evaluate body s := by
  by_cases hi : i = .init
  · exact ⟨doInit, fun _ => by rw [hi]; rfl⟩
  · obtain ⟨m, hm⟩ := exec_eq_doProcess hn hi
    exact ⟨doProcess m, hm⟩

/-- Only the word 0 decodes to NOP (R105). -/
theorem eq_zero_of_decode_nop {w : Word} (h : decode (lanesOfWord w) = .ok .nop) : w = 0#32 := by
  rw [decode_lanesOfWord] at h
  rw [← pack_unpack w, fields_of_decodeFields _ _ h]
  rfl

/-- So a write of any other word, legal or not, goes through the entry. -/
theorem commandWrite_eq_evaluate {w : Word} (hw : w ≠ 0#32) :
    ∃ body, ∀ s, commandWrite (lanesOfWord w) s = evaluate body s := by
  cases hd : decode (lanesOfWord w) with
  | error r => exact ⟨_, fun s => commandWrite_of_decode_error s hd⟩
  | ok i =>
    have hn : i ≠ .nop := fun h => hw (eq_zero_of_decode_nop (h ▸ hd))
    obtain ⟨body, hbody⟩ := exec_eq_evaluate hn
    exact ⟨body, fun s => (commandWrite_of_decode_ok s hd).trans (hbody s)⟩

/-- Settles O6: a word but 0 is rejected or evaluated with the result cleared, and clearing twice is clearing once. -/
theorem commandEntry : Obligations.CommandEntry := by
  refine fun s w => ⟨fun hw => ?_, fun hw hb => ?_, fun hw hb => ?_⟩
  · subst hw
    exact commandWrite_of_decode_ok s (decode_encode .nop)
  · obtain ⟨body, hbody⟩ := commandWrite_eq_evaluate hw
    exact (hbody s).trans (evaluate_busy body s hb)
  · obtain ⟨body, hbody⟩ := commandWrite_eq_evaluate hw
    calc commandWrite (lanesOfWord w) s = body s.clearResult := (hbody s).trans (evaluate_idle body s hb)
      _ = commandWrite (lanesOfWord w) s.clearResult := ((hbody _).trans (evaluate_idle body s.clearResult hb)).symm

/-- Settles O10: every command but NOP goes through the entry of R210. -/
theorem busyCommandsRejected : Obligations.BusyCommandsRejected := fun s _ hb hn =>
  let ⟨body, hbody⟩ := exec_eq_evaluate hn
  (hbody s).trans (evaluate_busy body s hb)

/-- Settles O8: NOP does not go through the entry. -/
theorem nopWritesNothing : Obligations.NopWritesNothing := ⟨by decide, fun _ => rfl⟩

/-! ### R220: INIT -/

theorem exec_init_idle {s : State} (hb : s.busy = false) : exec .init s = .next { s with status :=
    { done := true, err := false, reject := s.status.reject, errCode := .noError, initDone := true } } :=
  evaluate_idle doInit s hb

/-- Settles O9: the STATUS that INIT leaves is the one it leaves of that again. -/
theorem initSucceeds : Obligations.InitSucceeds := by
  refine ⟨fun s hb => exec_init_idle hb, fun s t hb ht => ?_, _, exec_init_idle rfl, by decide⟩
  rw [exec_init_idle hb] at ht
  cases ht
  exact exec_init_idle hb

/-! ### R213 to R219: the checks of PROCESS, and acceptance -/

/-- A check that fails leaves its code, the previous result cleared, and nothing else. -/
theorem raiseError_clearResult (s : State) (c : ErrorCode) : s.clearResult.raiseError c =
    { s with status := { s.status with done := false, err := true, errCode := c } } := rfl

/-- Settles O11: INIT_DONE is looked at before the mode and the parameter registers. -/
theorem processNeedsInit : Obligations.ProcessNeedsInit := by
  intro s i hb hinit hn hi
  obtain ⟨m, hm⟩ := exec_eq_doProcess hn hi
  rw [hm, evaluate_idle _ s hb, ← raiseError_clearResult]
  simp [doProcess, hinit]

/-- Settles O12: then the mode is looked at. -/
theorem reservedModeFails : Obligations.ReservedModeFails := by
  intro s hb hinit
  rw [exec, execProcessRsvd, evaluate_idle _ s hb, ← raiseError_clearResult]
  simp [doProcess, hinit]

/-- A PROCESS in one of the three modes fails with the first parameter check that does. -/
theorem exec_parameterError {s : State} {c : ErrorCode} (m : Mode) (hb : s.busy = false)
    (hinit : s.status.initDone = true) (hc : s.parameterError = some c) :
    exec m.instr s = .next (s.clearResult.raiseError c) := by
  rw [exec_instr, evaluate_idle _ s hb]
  simp [doProcess, hinit, hc]

/-- Settles O13: each check in the numbers of its rule, where those before it pass. -/
theorem parameterChecksInOrder : Obligations.ParameterChecksInOrder := by
  intro s m hb hinit W H S D absent geometry past overlap fails
  have hfails {c : ErrorCode} (hc : s.parameterError = some c) : fails c := exec_parameterError m hb hinit hc
  have heven (hg : ¬geometry) : W % 2 = 0 := by omega
  refine ⟨fun ha => hfails ?_, fun ha hg => hfails ?_, fun ha hg he => hfails ?_, fun ha hg he ho => hfails ?_⟩
  · rw [State.parameterError, if_pos ((inputAbsent_iff s).2 ha)]
  · rw [State.parameterError, if_neg (mt (inputAbsent_iff s).1 ha), if_pos ((badGeometry_iff s).2 hg)]
  · rw [State.parameterError, if_neg (mt (inputAbsent_iff s).1 ha), if_neg (mt (badGeometry_iff s).1 hg),
      if_pos ((pastTheEnd_iff s (heven hg)).2 he)]
  · rw [State.parameterError, if_neg (mt (inputAbsent_iff s).1 ha), if_neg (mt (badGeometry_iff s).1 hg),
      if_neg (mt (pastTheEnd_iff s (heven hg)).1 he), if_pos ((buffersOverlap_iff s (heven hg)).2 ho)]

/-- The bytes a launched command takes are those from SRC_ADDR on, lowest address first (R40, R61). -/
theorem readRange_srcRange {s : State} (h : s.Launchable) : Memory.readRange s.mem s.srcRange =
    (List.range (3 * s.width.toNat * s.height.toNat / 2)).map (fun k => Memory.read s.mem (s.srcAddr.toNat + k)) := by
  rw [srcRange_eq h, Memory.readRange, addressesOf, List.map_map]
  rfl

theorem statusWord_accepted {s : State} (m : Mode) (hinit : s.status.initDone = true)
    (hr : s.status.reject = false) : statusWord (s.clearResult.accept m) = 0x00010001#32 := by
  simp [statusWord, hinit, hr, ErrorCode.code]

/-- Settles O14: a launch that no duty stops is accepted. -/
theorem processAccepted : Obligations.ProcessAccepted := by
  intro s m h
  refine ⟨s.clearResult.accept m, exec_launchable h m, ?_, statusWord_accepted m h.initialized⟩
  rw [← readRange_srcRange h]
  rfl

/-! ### R222, R226, R227: completion -/

theorem engineStep_idle {s : State} (h : s.engine = .idle) : engineStep s = .next s := by
  rw [engineStep, h]

section completion
variable {s : State} {c : Snapshot}

theorem engineStep_busy (h : s.engine = .busy c) : engineStep s = .next (s.complete c) := by
  rw [engineStep, h]

/-- Byte `k` of the DST range after an untainted, accessible completion (R221). -/
theorem read_complete_dst (ht : s.taint = false) (hok : c.accessible s.platform = true) {k : Nat}
    (hk : k < 3 * c.w.toNat * c.h.toNat) : Memory.read (s.complete c).mem (c.dst.toNat + k) =
      outByte c.mode c.srcMem c.w.toNat c.h.toNat k := by
  have hin : c.dstRange.holds (c.dst.toNat + k) = true := by
    rw [holds_iff, Snapshot.dstRange, dstLength_eq]
    exact ⟨Nat.le_add_right _ _, Nat.add_lt_add_left hk _⟩
  rw [complete_mem, completionMem_result s c _ ht hok hin, Snapshot.resultAt, Nat.add_sub_cancel_left]

end completion

/-- Settles O28: TAINT changes the bytes written, but neither the outcome nor where they are written. -/
theorem taintedCompletion : Obligations.TaintedCompletion := fun s c hc _ hok =>
  ⟨s.complete c, engineStep_busy hc, rfl, rfl, complete_done ((accessible_iff c s.platform).2 hok),
    completionMem_out s c⟩

/-- Settles O29: the bytes outside the DST range and the stale record as the laws of completion have them, and the
other fields one by one. -/
theorem completionFrame : Obligations.CompletionFrame := by
  refine ⟨fun s c hc => ?_, fun s => engineStep_idle⟩
  have hsrc (hv : c.Valid s.platform) (a : Nat) (ha : c.srcRange.holds a = true) :
      Memory.read (s.complete c).mem a = Memory.read s.mem a :=
    completionMem_out s c a (ranges_apart c s.platform hv a ha)
  have hstale (hco : s.platform.hostCoherent = false) (a : Nat) :
      a ∈ (s.complete c).stale ↔ a ∈ s.stale ∨ c.dstRange.holds a = true := by
    simp [mem_markStale, hco]
  exact ⟨s.complete c, engineStep_busy hc, busy_complete s c, completionMem_out s c, hsrc, rfl, rfl, rfl, rfl, rfl,
    completionStatus_reject s c, completionStatus_initDone s c, rfl, rfl, rfl, rfl, rfl, rfl,
    markStale_coherent s c.dstRange, hstale⟩

/-- Settles O30: each byte written is a function of S_MEM, S_W, S_H and S_MODE. -/
theorem resultDependsOnlyOnSnapshot : Obligations.ResultDependsOnlyOnSnapshot := by
  intro s s' t t' c c' hc hc' hmem hw hh hmode ht ht' hok hok' hstep hstep'
  rw [engineStep_busy hc] at hstep
  rw [engineStep_busy hc'] at hstep'
  cases hstep
  cases hstep'
  refine ⟨by rw [complete_done hok]; rfl, by rw [complete_done hok']; rfl, fun k hk => ?_⟩
  rw [read_complete_dst ht hok hk, read_complete_dst ht' hok' (hw ▸ hh ▸ hk), hmem, hw, hh, hmode]

end Sys2Proof.Machine

/-! Exceptions (60_exceptions.md): what the evaluation of a command leaves alone, which bytes a command that meets a
BUS_ERROR may have written, and which steps change CYCLES. -/

namespace Sys2Proof.Machine

/-! ### R240, R245: the frame of an evaluation -/

/-- While BUSY a command is NOP or is discarded (R210). -/
theorem CommandEffect.of_busy {s t : State} {i : Option Instr} (h : CommandEffect s i t) (hb : s.busy = true) :
    t = s ∨ t = s.rejectCommand := by
  cases h with
  | nop => exact .inl rfl
  | rejected => exact .inr rfl
  | init hidle | failed _ _ _ _ hidle | accepted _ hidle => cases hb.symm.trans hidle

/-- Settles O16: only INIT touches INIT_DONE, only the discard touches REJECT, and while BUSY there is nothing but
the discard. -/
theorem evaluationFrame : Obligations.EvaluationFrame := by
  intro s t i h
  have heff := exec_effect i s t h
  have hframe := commandEffect_frame s t (some i) heff
  have hmem : t.mem = s.mem := by rw [hframe]
  refine ⟨hframe, fun a => by rw [hmem], fun hset => ?_, fun hi => ?_, fun hidle => ?_, fun hset => ?_, fun hb => ?_⟩
  · exact heff.initDone_cases.elim (fun hkept => hkept.trans hset) (fun ⟨_, hinit⟩ => hinit)
  · exact heff.initDone_cases.resolve_right fun ⟨hinit, _⟩ => hi (Option.some.inj hinit)
  · exact heff.reject_cases.resolve_right fun ⟨_, hb, _⟩ => Bool.false_ne_true (hidle.symm.trans hb)
  · exact heff.reject_cases.elim (fun hkept => hkept.trans hset) (fun ⟨hrej, _⟩ => hrej)
  · obtain rfl | rfl := heff.of_busy hb <;> exact ⟨rfl, rfl, rfl, rfl, rfl⟩

/-! ### R72, R246: a completion with BUS_ERROR -/

section completion
variable {s : State} {c : Snapshot}

theorem complete_busError (hok : c.accessible s.platform = false) :
    (s.complete c).status = s.status.fail .busError := by
  simp [completionStatus, hok]

/-- A completion writes no byte outside MEM_OK: with one in the DST range it is not accessible, and what is then
written is filtered (R72). -/
theorem completionMem_not_memOk {a : Nat} (ha : s.platform.memOkAt a = false) :
    Memory.read (completionMem s c) a = Memory.read s.mem a := by
  cases hd : c.dstRange.holds a with
  | false => exact completionMem_out s c a hd
  | true =>
    have hok : c.accessible s.platform ≠ true := fun hok =>
      Bool.false_ne_true (ha.symm.trans ((accessible_iff c s.platform).1 hok a (.inr hd)))
    rw [completionMem, if_neg hok]
    exact read_fill_out _ _ _ _ (by simp [ha])

end completion

/-- Settles O27: the address outside MEM_OK decides the outcome, and the bytes kept are those outside the DST range
and those outside MEM_OK. -/
theorem busErrorCompletion : Obligations.BusErrorCompletion := by
  rintro s c hc ⟨b, hb, hbad⟩
  have hok : c.accessible s.platform = false := by
    rw [← Bool.not_eq_true, accessible_iff]
    exact fun hall => Bool.false_ne_true (hbad.symm.trans (hall b hb))
  exact ⟨s.complete c, engineStep_busy hc, rfl, rfl, complete_busError hok, rfl, rfl, rfl, rfl, rfl,
    fun a ha => ha.elim (completionMem_out s c a) completionMem_not_memOk⟩

/-! ### R261: who changes CYCLES -/

theorem CommandEffect.cycles_eq {s t : State} {i : Option Instr} (h : CommandEffect s i t) : t.cycles = s.cycles := by
  rw [commandEffect_frame s t i h]

/-- No access of a host changes CYCLES: its register ignores a write. -/
theorem HostEffect.cycles_eq {s t : State} {op : HostOp} (h : HostEffect s op t) : t.cycles = s.cycles := by
  cases h with
  | nothing => rfl
  | register offset d r =>
    obtain ⟨-, -, -, -, -, -, -, hcycles, -⟩ := writeReg_frame (s.respond .okay) d r
    exact hcycles
  | command offset w t _ _ ht => exact ht.cycles_eq
  | answered | polled | stored | storedOnly | skipped | drawn | cleaned | invalidated => rfl

/-- Settles O39: of all that a step can do, only a completion and reset write CYCLES. -/
theorem cyclesChanges : Obligations.CyclesChanges := by
  intro s t h hne
  cases step_effect s t h with
  | waits | nothingRuns | release => exact absurd rfl hne
  | host op rest t _ _ ht => exact absurd ht.cycles_eq hne
  | completes c hn hc => exact .inl ⟨hn, busy_of_busy s c hc⟩
  | reset hn => exact .inr hn

end Sys2Proof.Machine

/-! Reset and hazards (70_reset_and_hazards.md): a running command completes at the engine's turn, what asserting
reset leaves in the block, in memory and in the record of the cache, and that releasing it changes the input alone. -/

namespace Sys2Proof.Machine

/-! ### R292: an accepted command completes -/

/-- Under reset the engine is IDLE, so a running command means that reset is released. -/
theorem inReset_eq_false_of_busy {s : State} (hs : s.ResetInv) (hb : s.busy = true) : s.inReset = false := by
  rw [← Bool.not_eq_true]
  intro hr
  obtain ⟨-, -, -, -, -, -, -, hidle⟩ := hs hr
  exact Bool.false_ne_true ((busy_of_idle s hidle).symm.trans hb)

/-- Past the end of the schedule reset is not asserted, so a running command is what moves (log entry 5). -/
theorem nextAgent_eq_engine {s : State} (hs : s.ResetInv) (hb : s.busy = true)
    (hsched : s.schedule = [] ∨ ∃ rest, s.schedule = .engine :: rest) : s.nextAgent = .engine := by
  obtain hempty | ⟨rest, hfirst⟩ := hsched
  · simp [State.nextAgent, hempty, inReset_eq_false_of_busy hs hb, hb]
  · simp [State.nextAgent, hfirst]

theorem step_of_engine {s : State} {c : Snapshot} (hn : s.nextAgent = .engine) (hc : s.engine = .busy c) :
    step s = .next ({ s with schedule := s.schedule.tail }.complete c) := by
  rw [step, hn]
  exact engineStep_busy (s := { s with schedule := s.schedule.tail }) hc

/-- A completion finds DONE and ERR clear (R44), so it answers with exactly one of them. -/
theorem completionStatus_cases {s : State} (c : Snapshot) (hs : s.StatusInv) (hb : s.busy = true) :
    ((completionStatus s c).done = true ∧ (completionStatus s c).err = false) ∨
    ((completionStatus s c).done = false ∧ (completionStatus s c).err = true ∧
      (completionStatus s c).errCode = .busError) := by
  obtain ⟨-, -, -, hclear⟩ := hs
  obtain ⟨hdone, herr⟩ := hclear hb
  rw [completionStatus]
  split
  · exact .inl ⟨rfl, herr⟩
  · exact .inr ⟨hdone, rfl, rfl⟩

/-- Settles O31: it is the engine's turn, its turn is the completion, and that sets one of DONE and ERR. -/
theorem acceptedCommandCompletes : Obligations.AcceptedCommandCompletes := by
  intro s hs hb hsched
  obtain ⟨c, hc⟩ := busy_eq_true s hb
  exact ⟨_, step_of_engine (nextAgent_eq_engine hs.reset hb hsched) hc, busy_complete _ c,
    completionStatus_cases c hs.status hb⟩

/-! ### R280 to R284: reset asserted and released -/

/-- Asserting reset in any state leaves every register at the value it has at `State.reset`. -/
theorem readReg_assertReset (s : State) (r : Reg) : readReg s.assertReset r = readReg State.reset r := by
  cases r <;> rfl

theorem stale_assertReset_unchanged {s : State} (h : s.busy = false ∨ s.platform.hostCoherent = true) :
    s.assertReset.stale = s.stale := by
  obtain ⟨-, -, -, -, -, hidle, hbusy⟩ := assertReset_rest s
  cases hc : s.engine with
  | idle => exact (hidle hc).2
  | busy c =>
    have hco : s.platform.hostCoherent = true := h.resolve_left (by simp [busy_of_busy s c hc])
    rw [(hbusy c hc).2, markStale_coherent s c.dstRange hco]

/-- On a platform that is not coherent the abandoned command's DST range joins the stale bytes (log entry 16). -/
theorem mem_stale_assertReset {s : State} {c : Snapshot} (hc : s.engine = .busy c)
    (hco : s.platform.hostCoherent = false) (a : Nat) :
    a ∈ s.assertReset.stale ↔ a ∈ s.stale ∨ c.dstRange.holds a = true := by
  obtain ⟨-, -, -, -, -, -, hbusy⟩ := assertReset_rest s
  simp [(hbusy c hc).2, mem_markStale, hco]

theorem read_assertReset_out {s : State} {c : Snapshot} (hc : s.engine = .busy c) {a : Nat}
    (ha : c.dstRange.holds a = false) : Memory.read s.assertReset.mem a = Memory.read s.mem a := by
  by_contra hne
  exact Bool.false_ne_true (ha.symm.trans (inFlightDst_of_busy hc a ▸ inFlightDst_of_assertReset_ne hne))

/-- Settles O33: the registers are those of the reset state, and memory and the stale record change only as the
abandoned command's DST range allows. -/
theorem resetStep : Obligations.ResetStep := by
  refine ⟨fun s => ?_, fun _ => rfl⟩
  obtain ⟨hplatform, hdirty, -, -, -, hidle, -⟩ := assertReset_rest s
  obtain ⟨hid, hzero, -⟩ := resetValues
  exact ⟨s.assertReset, rfl, rfl, rfl, rfl, rfl, (readReg_assertReset s .id).trans hid,
    fun r hr => (readReg_assertReset s r).trans (hzero r hr), hplatform, hdirty, stale_assertReset_unchanged,
    fun hb => (hidle (busy_eq_false s hb)).1,
    fun c hc => ⟨fun _ => read_assertReset_out hc, mem_stale_assertReset hc⟩⟩

end Sys2Proof.Machine
